-- ==== Sys2Proof/Word.lean ====
section
/-! DEFINITION. The widths of CORE's values: bytes, 32-bit register words, bit strings (00_scope.md R15 to R17). -/

namespace Sys2Proof

/-- An unsigned 8-bit value (R15). -/
abbrev Byte := BitVec 8

/-- A u32: a register word, a counter, a frame field (R15). -/
abbrev Word := BitVec 32

/-- A bit string, first bit first (R17). -/
abbrev Bits := List Bool

/-- A code table: a partial map from byte values to bit strings (R22, R50), listed in ascending symbol order. -/
abbrev Codes := List (Byte × Bits)

end Sys2Proof
end

