-- ==== Sys2Proof/Syntax.lean ====
section
/-! DEFINITION. The instructions of spec/opcode_table.json, one constructor per row, and the code words they are
read from: what the host puts on CORE's pins, and the sequencer's own stage codes (30_encoding.md R77, R79). -/

namespace Sys2Proof

/-- One constructor per row of the opcode table. -/
inductive Instr where
  -- CMD rows: the value written to CMD (30_encoding.md R77)
  /-- 45_commands.md R156. -/
  | nop
  /-- 45_commands.md R157. -/
  | compress
  /-- 45_commands.md R158. -/
  | decompress
  /-- 45_commands.md R159. -/
  | abort
  /-- 45_commands.md R160; `v` is the value written, none of 0 to 3. -/
  | reservedCmd (v : Word)
  -- STAGE rows: the engine step of the stage (10_state.md R36)
  /-- 10_state.md R36, 60_exceptions.md R187. -/
  | idle
  /-- 44_pipeline.md R133. -/
  | split
  /-- 44_pipeline.md R134. -/
  | bwt
  /-- 44_pipeline.md R135. -/
  | mtf
  /-- 44_pipeline.md R136. -/
  | rle
  /-- 44_pipeline.md R137. -/
  | entropy
  /-- 44_pipeline.md R139. -/
  | framed
  /-- 44_pipeline.md R140. -/
  | unframe
  /-- 44_pipeline.md R141. -/
  | entropyInv
  /-- 44_pipeline.md R142. -/
  | rleInv
  /-- 44_pipeline.md R143. -/
  | mtfInv
  /-- 44_pipeline.md R144. -/
  | bwtInv
  /-- 44_pipeline.md R145. -/
  | join
  /-- 44_pipeline.md R147. -/
  | drain
  -- STAGE_OP rows: the stage functions of files 40 to 43 (30_encoding.md R79)
  /-- 40_bwt.md R98. -/
  | bwtFwdExplicit
  /-- 40_bwt.md R100. -/
  | bwtFwdSentinel
  /-- 40_bwt.md R103. -/
  | bwtInvExplicit
  /-- 40_bwt.md R104. -/
  | bwtInvSentinel
  /-- 41_mtf.md R110. -/
  | mtfEnc
  /-- 41_mtf.md R111. -/
  | mtfDec
  /-- 42_rle.md R114. -/
  | rleEnc
  /-- 42_rle.md R115. -/
  | rleDec
  /-- 43_huffman.md R124. -/
  | hufEnc
  /-- 43_huffman.md R126. -/
  | hufDec
  /-- 43_huffman.md R125. -/
  | tabParse
  -- HOST rows: the host's transfers (45_commands.md)
  /-- 45_commands.md R161; `off` is the offset in the register window. -/
  | regRead (off : BitVec 6)
  /-- 45_commands.md R162; `off` is the offset in the register window. -/
  | regWrite (off : BitVec 6) (data : Word)
  /-- 45_commands.md R163. -/
  | inPush (b : Byte)
  /-- 45_commands.md R164. -/
  | outPop
  /-- 45_commands.md R167. -/
  | reset
  deriving DecidableEq, Repr

/-- What the host can put on CORE's pins (45_commands.md; R93). -/
inductive HostOp where
  /-- The value `v` as a `MemWrite(0x10, 4, v)` presents it to the command decoder (10_state.md R34,
  assumption log 15). -/
  | command (v : Word)
  /-- A bus read of `size` bytes at bus address `addr`, routed to CORE. -/
  | read (addr size : Nat)
  /-- A bus write at bus address `addr` of the bytes `lanes`, lowest address first; its size is their number. -/
  | write (addr : Nat) (lanes : List Byte)
  /-- One byte offered to the IN port. -/
  | push (b : Byte)
  /-- One byte taken from the OUT port. -/
  | pop
  /-- The reset input asserted, then released. -/
  | reset
  deriving DecidableEq, Repr

/-- A code word of one of the table's formats: CMD and HOST words come from the host, STAGE words are the
sequencer's 4-bit stage code, STAGE_OP words the 5-bit value `STATUS.MODE << 4 | STATUS.STAGE`. `second` asks for
the second stage function of a stage that applies two (44_pipeline.md R141; assumption log 14). -/
inductive Code where
  | host (h : HostOp)
  | stage (c : BitVec 4)
  | stageOp (c : BitVec 5) (second : Bool)
  deriving DecidableEq, Repr

end Sys2Proof
end

