-- ==== Sys2Proof/WellFormed.lean ====
section
/-! DEFINITION. Which terms of Instr stand for a row's instruction: the reserved command values are those no other
CMD row matches (30_encoding.md R79), and a register access has an offset that is a multiple of 4 (20_memory.md R62). -/

namespace Sys2Proof

/-- A value that no CMD row but RESERVED_CMD matches: 4 to 2^32 − 1 (30_encoding.md R77). -/
def reservedValue (v : Word) : Bool := 4 ≤ v.toNat

/-- A register offset of the form `oooo00` (opcode table, HOST rows; 20_memory.md R62). -/
def alignedOffset (off : BitVec 6) : Bool := off.toNat % 4 == 0

/-- The checks on an instruction's operands. -/
def wellFormed : Instr → Bool
  | .reservedCmd v => reservedValue v
  | .regRead off => alignedOffset off
  | .regWrite off _ => alignedOffset off
  | .nop | .compress | .decompress | .abort => true
  | .idle | .split | .bwt | .mtf | .rle | .entropy | .framed => true
  | .unframe | .entropyInv | .rleInv | .mtfInv | .bwtInv | .join | .drain => true
  | .bwtFwdExplicit | .bwtFwdSentinel | .bwtInvExplicit | .bwtInvSentinel => true
  | .mtfEnc | .mtfDec | .rleEnc | .rleDec | .hufEnc | .hufDec | .tabParse => true
  | .inPush _ | .outPop | .reset => true

end Sys2Proof
end

