-- ==== Sys2Proof/Decode.lean ====
section
/-! DEFINITION. The decoder of the code words, total and rejecting by name; the encoder, written from the same
tables (30_encoding.md R77, R79; 10_state.md R36; 45_commands.md); the rows of the opcode table as data. -/

namespace Sys2Proof

/-- Why a code word has no instruction. -/
inductive Reject where
  /-- A register access of the wrong size or alignment: CORE answers it with a bus error (20_memory.md R62). -/
  | busError
  /-- STAGE codes 14 and 15 are reserved and never shown (10_state.md R36). -/
  | reservedStage
  /-- The stage applies no stage function in that place (30_encoding.md R79). -/
  | noStageOp
  deriving DecidableEq, Repr

/-- The command decoder: the whole word, no field ignored (30_encoding.md R77). -/
def decodeCommand (v : Word) : Instr :=
  match v.toNat with
  | 0 => .nop
  | 1 => .compress
  | 2 => .decompress
  | 3 => .abort
  | _ => .reservedCmd v

/-- A legal register access: size 4 and an offset that is a multiple of 4 (20_memory.md R62). The window's base is
64-byte aligned, so the address and the offset agree modulo 4 (00_scope.md R11). -/
def legalAccess (addr size : Nat) : Bool := size == 4 && addr % 4 == 0

/-- CORE decodes only the six low address bits (20_memory.md R57). -/
def offsetOf (addr : Nat) : BitVec 6 := BitVec.ofNat 6 addr

/-- The register word on byte lanes, bits [7:0] on the lowest address (20_memory.md R61). -/
def wordOfLanes : List Byte → Word
  | [b0, b1, b2, b3] => b3 ++ b2 ++ b1 ++ b0
  | _ => 0

/-- The byte lanes of a register word (20_memory.md R61). -/
def lanesOfWord (v : Word) : List Byte :=
  [v.extractLsb' 0 8, v.extractLsb' 8 8, v.extractLsb' 16 8, v.extractLsb' 24 8]

/-- The host's transfers (opcode table, CMD and HOST rows). -/
def decodeHost : HostOp → Except Reject Instr
  | .command v => .ok (decodeCommand v)
  | .read addr size => if legalAccess addr size then .ok (.regRead (offsetOf addr)) else .error .busError
  | .write addr lanes =>
    if legalAccess addr lanes.length then .ok (.regWrite (offsetOf addr) (wordOfLanes lanes))
    else .error .busError
  | .push b => .ok (.inPush b)
  | .pop => .ok .outPop
  | .reset => .ok .reset

/-- The STAGE rows: the whole 4-bit code (10_state.md R36). -/
def decodeStage (c : BitVec 4) : Except Reject Instr :=
  match c.toNat with
  | 0 => .ok .idle
  | 1 => .ok .split
  | 2 => .ok .bwt
  | 3 => .ok .mtf
  | 4 => .ok .rle
  | 5 => .ok .entropy
  | 6 => .ok .framed
  | 7 => .ok .unframe
  | 8 => .ok .entropyInv
  | 9 => .ok .rleInv
  | 10 => .ok .mtfInv
  | 11 => .ok .bwtInv
  | 12 => .ok .join
  | 13 => .ok .drain
  | _ => .error .reservedStage

/-- The STAGE_OP rows: bit 4 is the mode and decides only for the two BWT stages (30_encoding.md R79). Stage 8
applies TAB_PARSE first and HUF_DEC second (44_pipeline.md R141). -/
def decodeStageOp (c : BitVec 5) (second : Bool) : Except Reject Instr :=
  match c.toNat % 16, c.toNat / 16 == 1, second with
  | 2, false, false => .ok .bwtFwdExplicit
  | 2, true, false => .ok .bwtFwdSentinel
  | 3, _, false => .ok .mtfEnc
  | 4, _, false => .ok .rleEnc
  | 5, _, false => .ok .hufEnc
  | 8, _, false => .ok .tabParse
  | 8, _, true => .ok .hufDec
  | 9, _, false => .ok .rleDec
  | 10, _, false => .ok .mtfDec
  | 11, false, false => .ok .bwtInvExplicit
  | 11, true, false => .ok .bwtInvSentinel
  | _, _, _ => .error .noStageOp

/-- The decoder of every format, total on every code word. -/
def decode : Code → Except Reject Instr
  | .host h => decodeHost h
  | .stage c => decodeStage c
  | .stageOp c second => decodeStageOp c second

/-- The code word of an instruction. Where a STAGE_OP row matches either mode, the encoder writes mode 0. -/
def encode : Instr → Code
  | .nop => .host (.command 0)
  | .compress => .host (.command 1)
  | .decompress => .host (.command 2)
  | .abort => .host (.command 3)
  | .reservedCmd v => .host (.command v)
  | .idle => .stage 0
  | .split => .stage 1
  | .bwt => .stage 2
  | .mtf => .stage 3
  | .rle => .stage 4
  | .entropy => .stage 5
  | .framed => .stage 6
  | .unframe => .stage 7
  | .entropyInv => .stage 8
  | .rleInv => .stage 9
  | .mtfInv => .stage 10
  | .bwtInv => .stage 11
  | .join => .stage 12
  | .drain => .stage 13
  | .bwtFwdExplicit => .stageOp 0x02 false
  | .bwtFwdSentinel => .stageOp 0x12 false
  | .bwtInvExplicit => .stageOp 0x0B false
  | .bwtInvSentinel => .stageOp 0x1B false
  | .mtfEnc => .stageOp 0x03 false
  | .mtfDec => .stageOp 0x0A false
  | .rleEnc => .stageOp 0x04 false
  | .rleDec => .stageOp 0x09 false
  | .hufEnc => .stageOp 0x05 false
  | .hufDec => .stageOp 0x08 true
  | .tabParse => .stageOp 0x08 false
  | .regRead off => .host (.read off.toNat 4)
  | .regWrite off data => .host (.write off.toNat (lanesOfWord data))
  | .inPush b => .host (.push b)
  | .outPop => .host .pop
  | .reset => .host .reset

/-- The one spelling of the code words that mean the same: an address counts through its six low bits (20_memory.md
R57), and a mode bit that a STAGE_OP row masks out is 0 (30_encoding.md R79). -/
def Code.canonical : Code → Code
  | .host (.read addr size) => .host (.read (offsetOf addr).toNat size)
  | .host (.write addr lanes) => .host (.write (offsetOf addr).toNat lanes)
  | .stageOp c second =>
    if c.toNat % 16 = 2 ∨ c.toNat % 16 = 11 then .stageOp c second
    else .stageOp (BitVec.ofNat 5 (c.toNat % 16)) second
  | c => c

/-- The formats of the opcode table. -/
inductive Format where
  | cmd | stage | stageOp | host
  deriving DecidableEq, Repr

/-- A row of the opcode table: its format, and its match and mask where it has them. -/
structure Row where
  format : Format
  pattern : Option (Nat × Nat)
  deriving DecidableEq, Repr

/-- The instruction's row of spec/opcode_table.json. -/
def Instr.row : Instr → Row
  | .nop => ⟨.cmd, some (0x00000000, 0xFFFFFFFF)⟩
  | .compress => ⟨.cmd, some (0x00000001, 0xFFFFFFFF)⟩
  | .decompress => ⟨.cmd, some (0x00000002, 0xFFFFFFFF)⟩
  | .abort => ⟨.cmd, some (0x00000003, 0xFFFFFFFF)⟩
  | .reservedCmd _ => ⟨.cmd, some (0x00000000, 0x00000000)⟩
  | .idle => ⟨.stage, some (0x0, 0xF)⟩
  | .split => ⟨.stage, some (0x1, 0xF)⟩
  | .bwt => ⟨.stage, some (0x2, 0xF)⟩
  | .mtf => ⟨.stage, some (0x3, 0xF)⟩
  | .rle => ⟨.stage, some (0x4, 0xF)⟩
  | .entropy => ⟨.stage, some (0x5, 0xF)⟩
  | .framed => ⟨.stage, some (0x6, 0xF)⟩
  | .unframe => ⟨.stage, some (0x7, 0xF)⟩
  | .entropyInv => ⟨.stage, some (0x8, 0xF)⟩
  | .rleInv => ⟨.stage, some (0x9, 0xF)⟩
  | .mtfInv => ⟨.stage, some (0xA, 0xF)⟩
  | .bwtInv => ⟨.stage, some (0xB, 0xF)⟩
  | .join => ⟨.stage, some (0xC, 0xF)⟩
  | .drain => ⟨.stage, some (0xD, 0xF)⟩
  | .bwtFwdExplicit => ⟨.stageOp, some (0x02, 0x1F)⟩
  | .bwtFwdSentinel => ⟨.stageOp, some (0x12, 0x1F)⟩
  | .bwtInvExplicit => ⟨.stageOp, some (0x0B, 0x1F)⟩
  | .bwtInvSentinel => ⟨.stageOp, some (0x1B, 0x1F)⟩
  | .mtfEnc => ⟨.stageOp, some (0x03, 0x0F)⟩
  | .mtfDec => ⟨.stageOp, some (0x0A, 0x0F)⟩
  | .rleEnc => ⟨.stageOp, some (0x04, 0x0F)⟩
  | .rleDec => ⟨.stageOp, some (0x09, 0x0F)⟩
  | .hufEnc => ⟨.stageOp, some (0x05, 0x0F)⟩
  | .hufDec => ⟨.stageOp, some (0x08, 0x0F)⟩
  | .tabParse => ⟨.stageOp, some (0x08, 0x0F)⟩
  | .regRead _ => ⟨.host, none⟩
  | .regWrite _ _ => ⟨.host, none⟩
  | .inPush _ => ⟨.host, none⟩
  | .outPop => ⟨.host, none⟩
  | .reset => ⟨.host, none⟩

/-- The format and the number a row's pattern is matched against. -/
def Code.bits : Code → Format × Nat
  | .host (.command v) => (.cmd, v.toNat)
  | .stage c => (.stage, c.toNat)
  | .stageOp c _ => (.stageOp, c.toNat)
  | .host _ => (.host, 0)

/-- Match and mask of a row against a code word. -/
def Row.matchesCode (r : Row) (c : Code) : Bool :=
  c.bits.1 == r.format &&
    match r.pattern with
    | some (pat, mask) => c.bits.2 &&& mask == pat
    | none => true

/-- The code word that `nbits` bits `w` of the opcode table stand for (assumption log 14). 32 bits are a CMD value.
A byte is a stage code: with bit 4 clear the 4-bit code of a STAGE row, with bit 4 set a 5-bit STAGE_OP value where
the stage has a stage function. A word of no bits is the reset input. -/
def tableCode (nbits w : Nat) : Option Code :=
  match nbits with
  | 0 => some (.host .reset)
  | 32 => some (.host (.command (BitVec.ofNat 32 w)))
  | 8 =>
    if w < 16 then some (.stage (BitVec.ofNat 4 w))
    else if w < 32 then
      match decodeStageOp (BitVec.ofNat 5 w) false with
      | .ok _ => some (.stageOp (BitVec.ofNat 5 w) false)
      | .error _ => some (.stage (BitVec.ofNat 4 w))
    else none
  | _ => none

/-- The instruction the decoder reads from a word of the opcode table. -/
def decodeTableWord (nbits w : Nat) : Option Instr :=
  match tableCode nbits w with
  | some c => match decode c with
    | .ok i => some i
    | .error _ => none
  | none => none

end Sys2Proof
end

