-- ==== Sys2Proof/Config.lean ====
section
/-! DEFINITION. The implementation parameters (00_scope.md R11) and the one free value of the model. -/

namespace Sys2Proof

/-- The parameters of 00_scope.md R11. State carries one such record unchanged, so that a statement about every
state is a statement about every configuration (assumption log 1). -/
structure Config where
  /-- `MAX_BLOCK_SIZE`: the largest block in bytes. -/
  maxBlockSize : Nat
  /-- `IN_FIFO_DEPTH`: bytes the IN port can buffer. -/
  inFifoDepth : Nat
  /-- `OUT_FIFO_DEPTH`: bytes the OUT port can buffer. -/
  outFifoDepth : Nat
  /-- `ID_VALUE`: what the ID register reads. -/
  idValue : Word
  /-- `REG_BASE`: the bus address of register window offset 0. -/
  regBase : Nat
  deriving DecidableEq, Repr

/-- The legal parameter values of the table of R11. -/
abbrev Config.Legal (c : Config) : Prop :=
  1 ≤ c.maxBlockSize ∧ c.maxBlockSize ≤ 2 ^ 24 ∧ 1 ≤ c.inFifoDepth ∧ 1 ≤ c.outFifoDepth ∧ c.regBase % 64 = 0

/-- The reference configuration: the defaults of R11. The two FIFO depths and the register base are OPEN there;
their values here are a DESIGN CHOICE (assumption logs 1 and 2). -/
def Config.reference : Config where
  maxBlockSize := 65536
  inFifoDepth := 65536
  outFifoDepth := 65536
  idValue := 0x42575407#32
  regBase := 0

/-- FREE VALUE (assumption log 10): the primary index the explicit forward transform gives for an empty block.
40_bwt.md R98 has 1 ≤ |B| and states no result for |B| = 0. -/
opaque Config.emptyPidx : Word

end Sys2Proof
end

