-- ==== Sys2Proof/Machine/State.lean ====
section
/-! DEFINITION. The state of CORE (10_state.md), plain data, and its value after reset (70_reset_and_hazards.md R188). -/

namespace Sys2Proof.Machine

/-- `st.op` and STATUS.OP (10_state.md R49). -/
inductive Op where
  | compress | decompress
  deriving DecidableEq, Repr

/-- `st.mode`, STATUS.MODE and CTRL.BWT_MODE (40_bwt.md R95). -/
inductive Mode where
  | explicitIndex | sentinel
  deriving DecidableEq, Repr

/-- The sequencer's stages (10_state.md R36). -/
inductive Stage where
  | idle | split | bwt | mtf | rle | entropy | framed
  | unframe | entropyInv | rleInv | mtfInv | bwtInv | join | drain
  deriving DecidableEq, Repr

/-- The data errors (30_encoding.md R80). -/
inductive ErrKind where
  | truncatedInput | corruptBlock | invalidCode | malformedCodeTable | sentinelCollision
  deriving DecidableEq, Repr

/-- Where UNFRAME stands in a frame (44_pipeline.md R140): before the check of a field, or reading the field
(assumption log 8). -/
inductive FrameField where
  /-- The `rem < 4` check before primaryIndex. -/
  | idxCheck
  /-- Reading primaryIndex. -/
  | idx
  /-- The `rem < 4` check before codeTableLen. -/
  | tabLenCheck
  /-- Reading codeTableLen. -/
  | tabLen
  /-- Reading the code table. -/
  | tab
  /-- The `rem < 4` check before payloadLen. -/
  | payLenCheck
  /-- Reading payloadLen. -/
  | payLen
  /-- Reading the payload. -/
  | pay
  deriving DecidableEq, Repr

/-- What CORE answered to the last host action (assumption log 4). -/
inductive Response where
  /-- No host action yet. -/
  | none
  /-- A legal register write or an accepted IN byte. -/
  | done
  /-- The word a legal register read returned (45_commands.md R161). -/
  | data (v : Word)
  /-- The byte an OUT pop returned (45_commands.md R164). -/
  | byte (b : Byte)
  /-- The transfer waits: the port is not ready, or the FIFO is empty (45_commands.md R163, R164). -/
  | waits
  /-- A refused read: bus error, with the data it returned (20_memory.md R62). -/
  | readError (v : Word)
  /-- A refused write: bus error (20_memory.md R62). -/
  | writeError
  deriving DecidableEq, Repr

/-- Who acts next (45_commands.md R168; assumption log 3). -/
inductive Turn where
  | engine
  | host (h : HostOp)
  deriving DecidableEq, Repr

/-- Why the machine stops: never. Every error of CORE is recorded in its registers and every wait holds
(60_exceptions.md R169, R187), so there is no constructor (assumption log 21). -/
inductive Fault where
  deriving DecidableEq, Repr

/-- Why an instruction has no meaning. -/
inductive Refusal where
  /-- Raised by an arm of exec whose instruction is not modelled; no arm raises it. Safe. -/
  | notModelled (mnemonic : String)
  deriving DecidableEq, Repr

/-- The whole state of CORE (10_state.md R26), the parameters, and the model's own fields for the host's side. -/
structure State where
  /-- The parameters (00_scope.md R11); no step changes them. -/
  cfg : Config
  -- the register window (10_state.md R29 to R44)
  /-- CTRL (R31). -/
  ctrl : Word
  /-- BLOCK_SIZE (R32). -/
  blockSize : Word
  /-- IN_LEN (R33). -/
  inLen : Word
  /-- STATUS.BUSY (R35). -/
  busy : Bool
  /-- STATUS.DONE (R35). -/
  done : Bool
  /-- STATUS.ERR (R35). -/
  err : Bool
  /-- STATUS.CMD_ERR (R35). -/
  cmdErr : Bool
  /-- STATUS.ABORTED (R35). -/
  aborted : Bool
  /-- ERR_INFO (R37). -/
  errInfo : Word
  /-- ERR_BLOCK (R38). -/
  errBlock : Word
  /-- BLOCK_COUNT (R39). -/
  blockCount : Word
  /-- IN_COUNT (R40). -/
  inCount : Word
  /-- OUT_COUNT (R41). -/
  outCount : Word
  /-- OUT_COMMIT (R42). -/
  outCommit : Word
  -- the ports (R47, R48)
  /-- `st.in_fifo`, oldest byte first (R47). -/
  inFifo : List Byte
  /-- `st.in_accepted`, 33 bits (R47). -/
  inAccepted : BitVec 33
  /-- `st.out_fifo`, oldest byte first (R48). -/
  outFifo : List Byte
  -- the latched command configuration (R49)
  /-- `st.op` and STATUS.OP. -/
  op : Op
  /-- `st.mode` and STATUS.MODE. -/
  mode : Mode
  /-- `st.bs`. -/
  latBs : Word
  /-- `st.inlen`. -/
  latLen : Word
  -- the working buffers (R50, R51)
  /-- `st.blk`. -/
  blk : List Byte
  /-- `st.L`, the BWT column. -/
  colL : List Byte
  /-- `st.pidx`, the primary index. -/
  pidx : Word
  /-- `st.M`, the MTF rank stream. -/
  rankM : List Byte
  /-- `st.R`, the RLE pair stream. -/
  pairR : List Byte
  /-- `st.codes`, the code table. -/
  codes : Codes
  /-- `st.tab`, the serialised code table. -/
  tab : List Byte
  /-- `st.pay`, the payload. -/
  pay : List Byte
  /-- `st.pend`, what FRAMED or JOIN still has to push. -/
  pend : List Byte
  /-- `st.need`, the bytes UNFRAME still has to read of its field. -/
  need : Nat
  /-- `st.alpha`, the MTF alphabet state (R51). -/
  alpha : List Byte
  -- the sequencer (R53)
  /-- `st.stage` and STATUS.STAGE. -/
  stage : Stage
  /-- `st.errored`. -/
  errored : Bool
  /-- Where UNFRAME stands in the frame (44_pipeline.md R140; assumption log 8). -/
  field : FrameField
  /-- The bytes UNFRAME has read of a length or index field (44_pipeline.md R140; assumption log 8). -/
  fbuf : List Byte
  /-- The next engine step is the block boundary step (44_pipeline.md R132; assumption log 8). -/
  boundary : Bool
  -- the model's own
  /-- The answer to the last host action (assumption log 4). -/
  resp : Response
  /-- The coming turns; when there is none the engine acts (assumption log 3). -/
  sched : List Turn
  deriving DecidableEq, Repr

/-- The identity alphabet `[0x00, 0x01, ..., 0xFF]` (41_mtf.md R108). -/
def identityAlphabet : List Byte := (List.range 256).map (BitVec.ofNat 8)

/-- The state right after reset in configuration `c` (70_reset_and_hazards.md R188). The working buffers, the
alphabet and the sequencer's own marks have no reset value in the spec: DESIGN CHOICE (assumption log 7). -/
def State.resetOf (c : Config) : State where
  cfg := c
  ctrl := 0
  blockSize := BitVec.ofNat 32 c.maxBlockSize
  inLen := 0
  busy := false
  done := false
  err := false
  cmdErr := false
  aborted := false
  errInfo := 0
  errBlock := 0
  blockCount := 0
  inCount := 0
  outCount := 0
  outCommit := 0
  inFifo := []
  inAccepted := 0
  outFifo := []
  op := .compress
  mode := .explicitIndex
  latBs := BitVec.ofNat 32 c.maxBlockSize
  latLen := 0
  blk := []
  colL := []
  pidx := 0
  rankM := []
  pairR := []
  codes := []
  tab := []
  pay := []
  pend := []
  need := 0
  alpha := identityAlphabet
  stage := .idle
  errored := false
  field := .idxCheck
  fbuf := []
  boundary := false
  resp := .none
  sched := []

/-- The state right after reset in the reference configuration, with no turn scheduled. -/
def State.reset : State := State.resetOf Config.reference

end Sys2Proof.Machine
end

