-- ==== Sys2Proof/Machine/Bits.lean ====
section
/-! DEFINITION. Byte order and bit order of the data formats (00_scope.md R16, R19; 20_memory.md R58 to R60). -/

namespace Sys2Proof.Machine

/-- `be32(v)`, v reduced modulo 2^32 (00_scope.md R19). -/
def be32 (v : Nat) : List Byte :=
  [BitVec.ofNat 8 (v / 2 ^ 24), BitVec.ofNat 8 (v / 2 ^ 16), BitVec.ofNat 8 (v / 2 ^ 8), BitVec.ofNat 8 v]

/-- `be16(v)` (00_scope.md R19). -/
def be16 (v : Nat) : List Byte := [BitVec.ofNat 8 (v / 2 ^ 8), BitVec.ofNat 8 v]

/-- The number of a big-endian byte sequence, `u32be` and `u16be` (00_scope.md R19). -/
def ofBE (s : List Byte) : Nat := s.foldl (fun n b => n * 256 + b.toNat) 0

/-- The byte holding up to eight bits, the first in bit 7, zero fill (20_memory.md R60). -/
def byteOfBits (w : Bits) : Byte :=
  BitVec.ofNat 8 ((List.range 8).foldl (fun n j => 2 * n + (w.getD j false).toNat) 0)

/-- `packbits(c)`: the `ceil(|c| / 8)` bytes holding c, bit k in bit `7 − (k mod 8)` of byte `floor(k / 8)`, zero fill
(43_huffman.md R122, 20_memory.md R60). -/
def packBits (w : Bits) : List Byte :=
  (List.range ((w.length + 7) / 8)).map fun k => byteOfBits ((w.drop (8 * k)).take 8)

/-- The bits of a byte, bit 7 first (20_memory.md R60). -/
def byteBits (b : Byte) : Bits := (List.range 8).map fun j => b.getLsbD (7 - j)

/-- The bit string of a byte sequence (20_memory.md R60). -/
def unpackBits (s : List Byte) : Bits := s.flatMap byteBits

end Sys2Proof.Machine
end

