-- ==== Sys2Proof/Machine/Operands.lean ====
section
/-! DEFINITION. The operands of the commands and stages: CTRL's fields, the derived capacities, the input left, the
stage and error codes (00_scope.md R13; 10_state.md R31, R36; 30_encoding.md R78, R80; 44_pipeline.md R130). -/

namespace Sys2Proof.Machine

/-- CTRL.BWT_MODE (10_state.md R31). -/
def State.bwtMode (s : State) : Mode := if s.ctrl.getLsbD 0 then .sentinel else .explicitIndex

/-- CTRL.IE_DONE (10_state.md R31). -/
def State.ieDone (s : State) : Bool := s.ctrl.getLsbD 1

/-- CTRL.IE_ERR (10_state.md R31). -/
def State.ieErr (s : State) : Bool := s.ctrl.getLsbD 2

/-- `CAP_L(mode)` (00_scope.md R13). -/
def capL (c : Config) (m : Mode) : Nat := c.maxBlockSize + (match m with | .sentinel => 1 | .explicitIndex => 0)

/-- `CAP_R(mode)` (00_scope.md R13). -/
def capR (c : Config) (m : Mode) : Nat := 2 * capL c m

/-- `MAX_TABLE_BYTES` (00_scope.md R13). -/
def maxTableBytes : Nat := 2 + 256 * (2 + 32)

/-- `rem`, the bytes of the command's input not yet popped (44_pipeline.md R130). -/
def State.rem (s : State) : Nat := s.latLen.toNat - s.inCount.toNat

/-- The port accepts a byte (45_commands.md R163). -/
def State.inReady (s : State) : Bool :=
  s.busy && decide (s.inFifo.length < s.cfg.inFifoDepth) && decide (s.inAccepted.toNat < s.latLen.toNat)

/-- `OutPush` is possible (45_commands.md R165). -/
def State.outRoom (s : State) : Bool := decide (s.outFifo.length < s.cfg.outFifoDepth)

/-- The STATUS.OP bit (10_state.md R35). -/
def Op.bit : Op → Bool
  | .compress => false
  | .decompress => true

/-- The STATUS.MODE bit (10_state.md R35). -/
def Mode.bit : Mode → Bool
  | .explicitIndex => false
  | .sentinel => true

/-- The STATUS.STAGE code (10_state.md R36). -/
def Stage.code : Stage → BitVec 4
  | .idle => 0
  | .split => 1
  | .bwt => 2
  | .mtf => 3
  | .rle => 4
  | .entropy => 5
  | .framed => 6
  | .unframe => 7
  | .entropyInv => 8
  | .rleInv => 9
  | .mtfInv => 10
  | .bwtInv => 11
  | .join => 12
  | .drain => 13

/-- The stage of a code; 14 and 15 are reserved (10_state.md R36). -/
def Stage.ofCode? (c : BitVec 4) : Option Stage :=
  match c.toNat with
  | 0 => some .idle
  | 1 => some .split
  | 2 => some .bwt
  | 3 => some .mtf
  | 4 => some .rle
  | 5 => some .entropy
  | 6 => some .framed
  | 7 => some .unframe
  | 8 => some .entropyInv
  | 9 => some .rleInv
  | 10 => some .mtfInv
  | 11 => some .bwtInv
  | 12 => some .join
  | 13 => some .drain
  | _ => none

/-- ERR_INFO.ERR_CODE (30_encoding.md R80). -/
def ErrKind.code : ErrKind → Nat
  | .truncatedInput => 1
  | .corruptBlock => 2
  | .invalidCode => 3
  | .malformedCodeTable => 4
  | .sentinelCollision => 5

end Sys2Proof.Machine
end

