-- ==== Sys2Proof/Machine/Flags.lean ====
section
/-! DEFINITION. CORE's flags: the STATUS word, its W1C write, the IRQ output (10_state.md R35, R45; 45_commands.md
R161, R162; 60_exceptions.md R175). -/

namespace Sys2Proof.Machine

/-- The IRQ output, a level (60_exceptions.md R175). -/
def State.irq (s : State) : Bool := (s.ieDone && s.done) || (s.ieErr && s.err)

/-- One bit at a place of a register word. -/
def bitAt (b : Bool) (k : Nat) : Word := (BitVec.ofBool b).setWidth 32 <<< k

/-- What STATUS reads: `BUSY | DONE<<1 | ERR<<2 | CMD_ERR<<3 | ABORTED<<4 | STAGE<<8 | OP<<12 | MODE<<13 | IRQ<<14`
(45_commands.md R161). -/
def State.statusWord (s : State) : Word :=
  bitAt s.busy 0 ||| bitAt s.done 1 ||| bitAt s.err 2 ||| bitAt s.cmdErr 3 ||| bitAt s.aborted 4
    ||| s.stage.code.setWidth 32 <<< 8 ||| bitAt s.op.bit 12 ||| bitAt s.mode.bit 13 ||| bitAt s.irq 14

/-- A write to STATUS: for k in 1 to 4, a 1 in bit k clears STATUS bit k; all other bits are ignored
(45_commands.md R162). -/
def State.w1c (v : Word) (s : State) : State :=
  { s with
    done := s.done && !v.getLsbD 1
    err := s.err && !v.getLsbD 2
    cmdErr := s.cmdErr && !v.getLsbD 3
    aborted := s.aborted && !v.getLsbD 4 }

end Sys2Proof.Machine
end

