-- ==== Sys2Proof/Machine/Ops.lean ====
section
/-! DEFINITION. The named operations every meaning is built from: the ports (45_commands.md R163 to R165), error
entry (60_exceptions.md R172), command start and end (45_commands.md R155, R159; 44_pipeline.md R132, R147, R148),
the register window (45_commands.md R161, R162; 20_memory.md R62). -/

namespace Sys2Proof.Machine

/-- The outcome of a step of this machine. -/
abbrev Result := Host.Outcome State Fault Refusal

/-! ### The sequencer -/

/-- `stage <- S` (00_scope.md R20). -/
def State.setStage (S : Stage) (s : State) : State := { s with stage := S }

/-- The answer to a host action (assumption log 4). -/
def State.setResp (r : Response) (s : State) : State := { s with resp := r }

/-- The turns left (assumption log 3). -/
def State.setSched (l : List Turn) (s : State) : State := { s with sched := l }

/-! ### The ports -/

/-- `InPop()`: the oldest byte and the state without it; none while the IN FIFO is empty (45_commands.md R165). -/
def State.inPop (s : State) : Option (Byte × State) :=
  match s.inFifo with
  | [] => none
  | b :: rest => some (b, { s with inFifo := rest, inCount := s.inCount + 1 })

/-- `OutPush(b)` (45_commands.md R165); the caller asks `outRoom` first. -/
def State.outPush (b : Byte) (s : State) : State :=
  { s with outFifo := s.outFifo ++ [b], outCount := s.outCount + 1 }

/-- An accepted IN byte (45_commands.md R163). -/
def State.acceptIn (b : Byte) (s : State) : State :=
  { s with inFifo := s.inFifo ++ [b], inAccepted := s.inAccepted + 1, resp := .done }

/-- A host push: accepted while the port is ready, else it waits (45_commands.md R163; assumption log 5). -/
def State.hostPush (b : Byte) (s : State) : State :=
  if s.inReady then s.acceptIn b else s.setResp .waits

/-- A host pop: the oldest OUT byte, or it waits while the FIFO is empty (45_commands.md R164; assumption log 5). -/
def State.hostPop (s : State) : State :=
  match s.outFifo with
  | [] => s.setResp .waits
  | b :: rest => { s with outFifo := rest, resp := .byte b }

/-! ### Error entry -/

/-- The value error entry writes to ERR_INFO: `K | (S << 8)` (60_exceptions.md R172). -/
def errWord (k : ErrKind) (S : Stage) : Word := BitVec.ofNat 32 (k.code ||| S.code.toNat <<< 8)

/-- `raise K(S)`: error entry, CORE's one exception (60_exceptions.md R172). -/
def State.raise (k : ErrKind) (S : Stage) (s : State) : State :=
  { s with
    errInfo := errWord k S
    errBlock := s.blockCount
    err := true
    errored := true
    stage := .drain }

/-- A stage function ends in its result or in error entry at stage `S`; it never does both (60_exceptions.md R172). -/
def State.settle (S : Stage) (s : State) (r : Except ErrKind State) : Result :=
  match r with
  | .ok t => .next t
  | .error k => .next (s.raise k S)

/-! ### Command start and end -/

/-- Command start (45_commands.md R155). -/
def State.commandStart (o : Op) (s : State) : State :=
  { s with
    op := o
    mode := s.bwtMode
    latBs := s.blockSize
    latLen := s.inLen
    inAccepted := 0
    errored := false
    done := false
    err := false
    aborted := false
    errInfo := 0
    errBlock := 0
    blockCount := 0
    inCount := 0
    outCount := 0
    outCommit := 0
    busy := true
    stage := match o with | .compress => .split | .decompress => .unframe
    boundary := true }

/-- A command the decoder refuses: CMD_ERR and no other effect (60_exceptions.md R169). -/
def State.refuseCommand (s : State) : State := { s with cmdErr := true }

/-- COMPRESS and DECOMPRESS: refused while BUSY, else command start (45_commands.md R157, R158). -/
def State.startOrRefuse (o : Op) (s : State) : State :=
  if s.busy then s.refuseCommand else s.commandStart o

/-- ABORT (45_commands.md R159). -/
def State.abort (s : State) : State :=
  if s.busy then
    { s with inFifo := [], aborted := true, busy := false, stage := .idle, boundary := false }
  else s

/-- Ending with DONE (44_pipeline.md R148). -/
def State.endDone (s : State) : State :=
  { s with busy := false, done := true, stage := .idle, boundary := false }

/-- The end of a drain (44_pipeline.md R147). -/
def State.endDrain (s : State) : State := { s with busy := false, stage := .idle }

/-- Entering SPLIT at a block boundary: the block starts empty (44_pipeline.md R132, R133). -/
def State.enterSplit (s : State) : State := { s with stage := .split, blk := [], boundary := false }

/-- Entering UNFRAME at a block boundary: the first field of the latched mode's frame (44_pipeline.md R132, R140). -/
def State.enterUnframe (s : State) : State :=
  { s with
    stage := .unframe
    field := match s.mode with | .explicitIndex => .idxCheck | .sentinel => .tabLenCheck
    need := 0
    fbuf := []
    boundary := false }

/-- The block boundary step (44_pipeline.md R132). -/
def State.boundaryStep (s : State) : State :=
  if s.rem = 0 then s.endDone
  else match s.op with
    | .compress => s.enterSplit
    | .decompress => s.enterUnframe

/-- The end of FRAMED and of JOIN: the block is durable, the boundary step comes next (44_pipeline.md R139, R145). -/
def State.commitBlock (s : State) : State :=
  { s with blockCount := s.blockCount + 1, outCommit := s.outCount, boundary := true }

/-- The steps of FRAMED and JOIN: one byte of `st.pend` a step, holding while the OUT FIFO is full; then the end of
the block (44_pipeline.md R139, R145). -/
def State.pushPending (s : State) : State :=
  match s.pend with
  | [] => s.commitBlock
  | b :: rest => if s.outRoom then { s.outPush b with pend := rest } else s

/-! ### The register window -/

/-- What a legal read of the window returns (45_commands.md R161). -/
def State.readReg (off : BitVec 6) (s : State) : Word :=
  match off.toNat with
  | 0x00 => s.cfg.idValue
  | 0x04 => s.ctrl
  | 0x08 => s.blockSize
  | 0x0C => s.inLen
  | 0x10 => 0
  | 0x14 => s.statusWord
  | 0x18 => s.errInfo
  | 0x1C => s.errBlock
  | 0x20 => s.blockCount
  | 0x24 => s.inCount
  | 0x28 => s.outCount
  | 0x2C => s.outCommit
  | 0x30 => BitVec.ofNat 32 s.cfg.maxBlockSize
  | _ => 0

/-- The operation a CMD write performs: exactly one, decoded on the whole word (45_commands.md R154; 30_encoding.md
R77). -/
def State.commandWrite (v : Word) (s : State) : State :=
  match v.toNat with
  | 0 => s
  | 1 => s.startOrRefuse .compress
  | 2 => s.startOrRefuse .decompress
  | 3 => s.abort
  | _ => s.refuseCommand

/-- What a legal write to the window does (45_commands.md R162). -/
def State.writeReg (off : BitVec 6) (v : Word) (s : State) : State :=
  match off.toNat with
  | 0x04 => { s with ctrl := v &&& 7 }
  | 0x08 => if 1 ≤ v.toNat ∧ v.toNat ≤ s.cfg.maxBlockSize then { s with blockSize := v } else s
  | 0x0C => { s with inLen := v }
  | 0x10 => s.commandWrite v
  | 0x14 => s.w1c v
  | _ => s

/-- The answer to an access that is not legal: a bus error, no effect on CORE's state, read data 0 (20_memory.md R62). -/
def State.busErrorRead (s : State) : State := s.setResp (.readError 0)

/-- The answer to a write that is not legal (20_memory.md R62). -/
def State.busErrorWrite (s : State) : State := s.setResp .writeError

/-- A register read of size 4 at any offset (45_commands.md R161; 20_memory.md R62). -/
def State.busRead (off : BitVec 6) (s : State) : State :=
  if alignedOffset off then s.setResp (.data (s.readReg off)) else s.busErrorRead

/-- A register write of size 4 at any offset (45_commands.md R162; 20_memory.md R62). -/
def State.busWrite (off : BitVec 6) (v : Word) (s : State) : State :=
  if alignedOffset off then (s.writeReg off v).setResp .done else s.busErrorWrite

/-- The reset input asserted and released: the reset state of the same configuration; the coming turns are the
host's, not CORE's (45_commands.md R167; 70_reset_and_hazards.md R188; assumption log 16). -/
def State.resetInput (s : State) : State := { State.resetOf s.cfg with sched := s.sched }

end Sys2Proof.Machine
end

