-- ==== Sys2Proof/Machine/Commands.lean ====
section
/-! DEFINITION. The meanings of the CMD rows (45_commands.md section 1). -/

namespace Sys2Proof.Machine

/-- NOP: nothing (45_commands.md R156). -/
def execNop (s : State) : Result := .next s

/-- COMPRESS (45_commands.md R157). -/
def execCompress (s : State) : Result := .next (s.startOrRefuse .compress)

/-- DECOMPRESS (45_commands.md R158). -/
def execDecompress (s : State) : Result := .next (s.startOrRefuse .decompress)

/-- ABORT (45_commands.md R159). -/
def execAbort (s : State) : Result := .next s.abort

/-- RESERVED_CMD, whatever the reserved value (45_commands.md R160). -/
def execReservedCmd (_v : Word) (s : State) : Result := .next s.refuseCommand

end Sys2Proof.Machine
end

