-- ==== Sys2Proof/Machine/HostPort.lean ====
section
/-! DEFINITION. The meanings of the HOST rows (45_commands.md sections 2 to 4). -/

namespace Sys2Proof.Machine

/-- REG_READ (45_commands.md R161). -/
def execRegRead (off : BitVec 6) (s : State) : Result := .next (s.busRead off)

/-- REG_WRITE (45_commands.md R162). -/
def execRegWrite (off : BitVec 6) (data : Word) (s : State) : Result := .next (s.busWrite off data)

/-- IN_PUSH (45_commands.md R163). -/
def execInPush (b : Byte) (s : State) : Result := .next (s.hostPush b)

/-- OUT_POP (45_commands.md R164). -/
def execOutPop (s : State) : Result := .next s.hostPop

/-- RESET (45_commands.md R167). -/
def execReset (s : State) : Result := .next s.resetInput

end Sys2Proof.Machine
end

