-- ==== Sys2Proof/Machine/Bwt.lean ====
section
/-! DEFINITION. The BWT permutation engine (40_bwt.md): rotations and their order, the forward transform, LF-mapping
and the inverse, in both modes; the meanings of BWT_FWD_EXPLICIT, BWT_FWD_SENTINEL, BWT_INV_EXPLICIT, BWT_INV_SENTINEL. -/

namespace Sys2Proof.Machine

/-- `rot(t, s) = t[s..N) ++ t[0..s)` (40_bwt.md R96). -/
def rot (t : List Byte) (s : Nat) : List Byte := t.drop s ++ t.take s

/-- `a <lex b`, bytes unsigned (00_scope.md R18). Only sequences of equal length are compared; a sequence that ends
first counts as the smaller, so that the order is total. -/
def lexLt : List Byte → List Byte → Bool
  | a :: as, b :: bs => if a = b then lexLt as bs else decide (a.toNat < b.toNat)
  | [], _ :: _ => true
  | _, [] => false

/-- The order of the keys `(rot(t, s), s)`: rotations first, start indices on a tie (40_bwt.md R96; 00_scope.md R18). -/
def keyLe (p q : List Byte × Nat) : Bool :=
  if p.1 = q.1 then decide (p.2 ≤ q.2) else lexLt p.1 q.1

/-- The rotation index: the start indices sorted by key (40_bwt.md R96). -/
def rotationOrder (t : List Byte) : List Nat :=
  (((List.range t.length).map fun s => (rot t s, s)).insertionSort fun p q => keyLe p q = true).map Prod.snd

/-- The last column of the sorted rotations: `t[(order[i] + N − 1) mod N]` (40_bwt.md R98, R100). -/
def lastColumn (t : List Byte) : List Byte :=
  (rotationOrder t).map fun o => t.getD ((o + t.length - 1) % t.length) 0

/-- The row of the unrotated block: the unique i with `order[i] = 0` (40_bwt.md R99). -/
def primaryIndex (t : List Byte) : Nat := (rotationOrder t).idxOf 0

/-- BWT_FWD in EXPLICIT_INDEX mode: column and primary index (40_bwt.md R98). For the empty block the spec states no
index: a free value (assumption log 10). -/
def bwtFwdExplicit (B : List Byte) : List Byte × Word :=
  (lastColumn B, if B = [] then Config.emptyPidx else BitVec.ofNat 32 (primaryIndex B))

/-- BWT_FWD in SENTINEL mode (40_bwt.md R100). -/
def bwtFwdSentinel (B : List Byte) : Except ErrKind (List Byte) :=
  if B.count 0 > 0 then .error .sentinelCollision else .ok (lastColumn (B ++ [0]))

/-- `C[c]`: how many bytes of L are below c (40_bwt.md R101). -/
def cumCount (L : List Byte) (c : Byte) : Nat := L.countP fun x => x.toNat < c.toNat

/-- `Occ(c, i)`: how many of the first i bytes of L are c, exclusive of i (40_bwt.md R101). -/
def occ (L : List Byte) (c : Byte) (i : Nat) : Nat := (L.take i).count c

/-- `LF(i) = C[L[i]] + Occ(L[i], i)` (40_bwt.md R101). -/
def lf (L : List Byte) (i : Nat) : Nat := cumCount L (L.getD i 0) + occ L (L.getD i 0) i

/-- Emit, then move, n times (40_bwt.md R103). -/
def walkEmitMove (L : List Byte) : Nat → Nat → List Byte
  | 0, _ => []
  | n + 1, p => L.getD p 0 :: walkEmitMove L n (lf L p)

/-- Move, then emit, n times (40_bwt.md R104). -/
def walkMoveEmit (L : List Byte) : Nat → Nat → List Byte
  | 0, _ => []
  | n + 1, p => L.getD (lf L p) 0 :: walkMoveEmit L n (lf L p)

/-- BWT_INV in EXPLICIT_INDEX mode (40_bwt.md R103). -/
def bwtInvExplicit (L : List Byte) (p : Nat) : Except ErrKind (List Byte) :=
  if L.length = 0 then .error .corruptBlock
  else if p ≥ L.length then .error .corruptBlock
  else .ok (walkEmitMove L L.length p).reverse

/-- BWT_INV in SENTINEL mode (40_bwt.md R104). -/
def bwtInvSentinel (L : List Byte) : Except ErrKind (List Byte) :=
  if L.length = 0 then .error .corruptBlock
  else if L.count 0 ≠ 1 then .error .corruptBlock
  else
    let out := walkMoveEmit L (L.length - 1) (L.idxOf 0)
    if out.count 0 > 0 then .error .corruptBlock else .ok out.reverse

/-- BWT_FWD_EXPLICIT applied to the buffers: `(st.L, st.pidx) <- BWT_FWD(st.blk)` (44_pipeline.md R134). -/
def State.applyBwtFwdExplicit (s : State) : Except ErrKind State :=
  .ok { s with colL := (bwtFwdExplicit s.blk).1, pidx := (bwtFwdExplicit s.blk).2 }

/-- BWT_FWD_SENTINEL applied to the buffers: `st.L <- BWT_FWD(st.blk)` (44_pipeline.md R134). -/
def State.applyBwtFwdSentinel (s : State) : Except ErrKind State :=
  match bwtFwdSentinel s.blk with
  | .ok L => .ok { s with colL := L }
  | .error k => .error k

/-- BWT_INV_EXPLICIT applied to the buffers: `st.blk <- BWT_INV(st.L, st.pidx)` (44_pipeline.md R144). -/
def State.applyBwtInvExplicit (s : State) : Except ErrKind State :=
  match bwtInvExplicit s.colL s.pidx.toNat with
  | .ok B => .ok { s with blk := B }
  | .error k => .error k

/-- BWT_INV_SENTINEL applied to the buffers: `st.blk <- BWT_INV(st.L)` (44_pipeline.md R144). -/
def State.applyBwtInvSentinel (s : State) : Except ErrKind State :=
  match bwtInvSentinel s.colL with
  | .ok B => .ok { s with blk := B }
  | .error k => .error k

/-- BWT_FWD_EXPLICIT (40_bwt.md R98). -/
def execBwtFwdExplicit (s : State) : Result := s.settle .bwt s.applyBwtFwdExplicit

/-- BWT_FWD_SENTINEL (40_bwt.md R100). -/
def execBwtFwdSentinel (s : State) : Result := s.settle .bwt s.applyBwtFwdSentinel

/-- BWT_INV_EXPLICIT (40_bwt.md R103). -/
def execBwtInvExplicit (s : State) : Result := s.settle .bwtInv s.applyBwtInvExplicit

/-- BWT_INV_SENTINEL (40_bwt.md R104). -/
def execBwtInvSentinel (s : State) : Result := s.settle .bwtInv s.applyBwtInvSentinel

end Sys2Proof.Machine
end

