-- ==== Sys2Proof/Machine/Huffman.lean ====
section
/-! DEFINITION. The Huffman tree builder and prefix-code bit packer (43_huffman.md) and the meanings of HUF_ENC,
TAB_PARSE and HUF_DEC. -/

namespace Sys2Proof.Machine

/-! ### Building the code -/

/-- `freq[s]` (43_huffman.md R118). -/
def freq (X : List Byte) (s : Byte) : Nat := X.count s

/-- The symbols of X in ascending order (43_huffman.md R118). -/
def symbols (X : List Byte) : List Byte := identityAlphabet.filter fun s => 0 < freq X s

/-- The code tree (43_huffman.md R119). -/
inductive Tree where
  | leaf (s : Byte)
  | node (left right : Tree)
  deriving DecidableEq, Repr

/-- An entry of the priority queue (43_huffman.md R119). -/
structure QItem where
  weight : Nat
  seq : Nat
  tree : Tree
  deriving DecidableEq, Repr

/-- The queue's order: weight, then sequence number (43_huffman.md R119). -/
def qBefore (a b : QItem) : Bool :=
  a.weight < b.weight || (a.weight == b.weight && a.seq < b.seq)

/-- Insertion into the queue, which is kept in its order. -/
def qInsert (x : QItem) : List QItem → List QItem
  | [] => [x]
  | y :: ys => if qBefore x y then x :: y :: ys else y :: qInsert x ys

/-- The leaves, inserted in ascending symbol order with sequence numbers 0, 1, … (43_huffman.md R119). -/
def initialQueue (X : List Byte) : List QItem :=
  (symbols X).zipIdx.foldl (fun q p => qInsert ⟨freq X p.1, p.2, .leaf p.1⟩ q) []

/-- The merge loop: the two smallest become one node, the first extracted on the left; `n` bounds the merges
(43_huffman.md R119). -/
def mergeQueue : Nat → Nat → List QItem → List QItem
  | n + 1, seq, a :: b :: rest =>
    mergeQueue n (seq + 1) (qInsert ⟨a.weight + b.weight, seq, .node a.tree b.tree⟩ rest)
  | _, _, q => q

/-- HUF_BUILD: the one tree left, none for no symbol (43_huffman.md R119). -/
def hufBuild (X : List Byte) : Option Tree :=
  ((mergeQueue (symbols X).length (symbols X).length (initialQueue X)).head?).map QItem.tree

/-- The walk: 0 for a left edge, 1 for a right edge (43_huffman.md R120). -/
def treeCodes : Tree → Bits → Codes
  | .leaf s, w => [(s, w)]
  | .node l r, w => treeCodes l (w ++ [false]) ++ treeCodes r (w ++ [true])

/-- `codes[s]`, empty where there is none. -/
def codeOf (codes : Codes) (s : Byte) : Bits := (codes.lookup s).getD []

/-- Code assignment, listed in ascending symbol order (43_huffman.md R120). -/
def buildCodes (X : List Byte) : Codes :=
  match symbols X with
  | [] => []
  | [s] => [(s, [false])]
  | S => match hufBuild X with
    | some t => S.map fun s => (s, codeOf (treeCodes t []) s)
    | none => []

/-! ### Serialising and packing -/

/-- One table entry (43_huffman.md R122). -/
def serEntry (e : Byte × Bits) : List Byte := e.1 :: BitVec.ofNat 8 e.2.length :: packBits e.2

/-- TAB_SER (43_huffman.md R122). -/
def tabSer (codes : Codes) : List Byte := be16 codes.length ++ codes.flatMap serEntry

/-- `pad = (8 − (|w| mod 8)) mod 8` (43_huffman.md R123). -/
def padLength (w : Bits) : Nat := (8 - w.length % 8) % 8

/-- PACK (43_huffman.md R123). -/
def pack (X : List Byte) (codes : Codes) : List Byte :=
  let w := X.flatMap (codeOf codes)
  BitVec.ofNat 8 (padLength w) :: packBits (w ++ List.replicate (padLength w) false)

/-- HUF_ENC: table and payload (43_huffman.md R124). -/
def hufEnc (X : List Byte) : List Byte × List Byte := (tabSer (buildCodes X), pack X (buildCodes X))

/-! ### Parsing and decoding -/

/-- s is above the last symbol (43_huffman.md R125). -/
def ascends (last : Option Byte) (s : Byte) : Bool :=
  match last with
  | none => true
  | some l => l.toNat < s.toNat

/-- The entry loop of TAB_PARSE: `n` entries from the bytes left, with the symbol before; none is `fail`, else the
entries and the bytes after them (43_huffman.md R125). -/
def parseEntries : Nat → Option Byte → List Byte → Option (Codes × List Byte)
  | 0, _, t => some ([], t)
  | n + 1, last, s :: len :: t =>
    let nb := (len.toNat + 7) / 8
    let bits := unpackBits (t.take nb)
    if !ascends last s then none
    else if len = 0 then none
    else if t.length < nb then none
    else if (bits.drop len.toNat).any id then none
    else match parseEntries n (some s) (t.drop nb) with
      | some (codes, rest) => some ((s, bits.take len.toNat) :: codes, rest)
      | none => none
  | _ + 1, _, _ => none

/-- No code is a prefix of, or equal to, the code of another symbol (43_huffman.md R121, R125). -/
def prefixFree (codes : Codes) : Bool :=
  codes.all fun a => codes.all fun b => a.1 == b.1 || !a.2.isPrefixOf b.2

/-- TAB_PARSE; every `fail` is MALFORMED_CODE_TABLE (43_huffman.md R125). -/
def tabParse (t : List Byte) : Except ErrKind Codes :=
  if t.length < 2 then .error .malformedCodeTable
  else if ofBE (t.take 2) > 256 then .error .malformedCodeTable
  else match parseEntries (ofBE (t.take 2)) none (t.drop 2) with
    | some (codes, []) => if prefixFree codes then .ok codes else .error .malformedCodeTable
    | _ => .error .malformedCodeTable

/-- The bit loop of HUF_DEC: the bits read since the last symbol, the count of symbols so far (43_huffman.md R126). -/
def hufDecFrom (codes : Codes) (cap : Nat) : Bits → Nat → Bits → Except ErrKind (List Byte)
  | acc, _, [] => if acc = [] then .ok [] else .error .invalidCode
  | acc, n, b :: bs =>
    let acc' := acc ++ [b]
    if !codes.any (fun e => acc'.isPrefixOf e.2) then .error .invalidCode
    else match codes.find? (fun e => e.2 == acc') with
      | some e =>
        if n + 1 > cap then .error .corruptBlock
        else match hufDecFrom codes cap [] (n + 1) bs with
          | .ok out => .ok (e.1 :: out)
          | .error k => .error k
      | none => hufDecFrom codes cap acc' n bs

/-- HUF_DEC with the capacity `cap` (43_huffman.md R126). A payload of no byte, which UNFRAME never passes on, has
no pad byte and fewer than 0 bits: INVALID_CODE (assumption log 11). -/
def hufDec (codes : Codes) (cap : Nat) : List Byte → Except ErrKind (List Byte)
  | [] => .error .invalidCode
  | pad :: packed =>
    if pad.toNat > 7 then .error .invalidCode
    else if 8 * packed.length < pad.toNat then .error .invalidCode
    else
      let bits := unpackBits packed
      let T := 8 * packed.length - pad.toNat
      match hufDecFrom codes cap [] 0 (bits.take T) with
      | .ok out => if (bits.drop T).any id then .error .invalidCode else .ok out
      | .error k => .error k

/-! ### The buffers -/

/-- HUF_ENC applied to the buffers: `(st.tab, st.pay) <- HUF_ENC(st.R)`, with the code table kept in `st.codes`
(44_pipeline.md R137; 10_state.md R52; assumption log 19). -/
def State.applyHufEnc (s : State) : Except ErrKind State :=
  .ok { s with codes := buildCodes s.pairR, tab := (hufEnc s.pairR).1, pay := (hufEnc s.pairR).2 }

/-- TAB_PARSE applied to the buffers: `codes <- TAB_PARSE(st.tab)` (44_pipeline.md R141). -/
def State.applyTabParse (s : State) : Except ErrKind State :=
  match tabParse s.tab with
  | .ok c => .ok { s with codes := c }
  | .error k => .error k

/-- HUF_DEC applied to the buffers: `st.R <- HUF_DEC(codes, st.pay)` (44_pipeline.md R141). -/
def State.applyHufDec (s : State) : Except ErrKind State :=
  match hufDec s.codes (capR s.cfg s.mode) s.pay with
  | .ok R => .ok { s with pairR := R }
  | .error k => .error k

/-- HUF_ENC (43_huffman.md R124). -/
def execHufEnc (s : State) : Result := s.settle .entropy s.applyHufEnc

/-- TAB_PARSE (43_huffman.md R125). -/
def execTabParse (s : State) : Result := s.settle .entropyInv s.applyTabParse

/-- HUF_DEC (43_huffman.md R126). -/
def execHufDec (s : State) : Result := s.settle .entropyInv s.applyHufDec

end Sys2Proof.Machine
end

