-- ==== Sys2Proof/Machine/Mtf.lean ====
section
/-! DEFINITION. The move-to-front rank mapper (41_mtf.md) and the meanings of MTF_ENC and MTF_DEC. -/

namespace Sys2Proof.Machine

/-- The move-to-front update at position i: remove, then prepend (41_mtf.md R109). -/
def moveToFront (alpha : List Byte) (i : Nat) : List Byte :=
  alpha.getD i 0 :: (alpha.take i ++ alpha.drop (i + 1))

/-- The loop of MTF_ENC: the ranks and the alphabet it leaves (41_mtf.md R110). -/
def mtfEncFrom : List Byte → List Byte → List Byte × List Byte
  | alpha, [] => ([], alpha)
  | alpha, x :: xs =>
    let i := alpha.idxOf x
    let r := mtfEncFrom (moveToFront alpha i) xs
    (BitVec.ofNat 8 i :: r.1, r.2)

/-- The loop of MTF_DEC: the bytes and the alphabet it leaves (41_mtf.md R111). -/
def mtfDecFrom : List Byte → List Byte → List Byte × List Byte
  | alpha, [] => ([], alpha)
  | alpha, i :: is =>
    let r := mtfDecFrom (moveToFront alpha i.toNat) is
    (alpha.getD i.toNat 0 :: r.1, r.2)

/-- MTF_ENC from the identity alphabet (41_mtf.md R108, R110). -/
def mtfEnc (X : List Byte) : List Byte × List Byte := mtfEncFrom identityAlphabet X

/-- MTF_DEC from the identity alphabet (41_mtf.md R108, R111). -/
def mtfDec (Y : List Byte) : List Byte × List Byte := mtfDecFrom identityAlphabet Y

/-- MTF_ENC applied to the buffers: `st.M <- MTF_ENC(st.L)` (44_pipeline.md R135). -/
def State.applyMtfEnc (s : State) : Except ErrKind State :=
  .ok { s with rankM := (mtfEnc s.colL).1, alpha := (mtfEnc s.colL).2 }

/-- MTF_DEC applied to the buffers: `st.L <- MTF_DEC(st.M)` (44_pipeline.md R143). -/
def State.applyMtfDec (s : State) : Except ErrKind State :=
  .ok { s with colL := (mtfDec s.rankM).1, alpha := (mtfDec s.rankM).2 }

/-- MTF_ENC (41_mtf.md R110). -/
def execMtfEnc (s : State) : Result := s.settle .mtf s.applyMtfEnc

/-- MTF_DEC (41_mtf.md R111). -/
def execMtfDec (s : State) : Result := s.settle .mtfInv s.applyMtfDec

end Sys2Proof.Machine
end

