-- ==== Sys2Proof/Machine/Rle.lean ====
section
/-! DEFINITION. The run-length coder (42_rle.md) and the meanings of RLE_ENC and RLE_DEC. -/

namespace Sys2Proof.Machine

/-- The maximal runs of a sequence, as (length, value) (42_rle.md R114). -/
def runs : List Byte → List (Nat × Byte)
  | [] => []
  | x :: xs =>
    match runs xs with
    | [] => [(1, x)]
    | (r, v) :: rest => if v = x then (r + 1, v) :: rest else (1, x) :: (r, v) :: rest

/-- The pairs of a run of length r: `floor(r / 255)` pairs (255, v), then (r mod 255, v) if that is not 0
(42_rle.md R114). -/
def runPairs (r : Nat) (v : Byte) : List Byte :=
  (List.replicate (r / 255) [(255 : Byte), v]).flatten ++
    if r % 255 = 0 then [] else [BitVec.ofNat 8 (r % 255), v]

/-- RLE_ENC (42_rle.md R114). -/
def rleEnc (X : List Byte) : List Byte := (runs X).flatMap fun p => runPairs p.1 p.2

/-- The pair loop of RLE_DEC, with n bytes already written (42_rle.md R115). -/
def rleDecFrom (cap : Nat) : Nat → List Byte → Except ErrKind (List Byte)
  | n, c :: v :: rest =>
    if c = 0 then .error .corruptBlock
    else if n + c.toNat > cap then .error .corruptBlock
    else match rleDecFrom cap (n + c.toNat) rest with
      | .ok out => .ok (List.replicate c.toNat v ++ out)
      | .error k => .error k
  | _, _ => .ok []

/-- RLE_DEC with the column capacity `cap`: the odd-length check comes first (42_rle.md R115). -/
def rleDec (cap : Nat) (R : List Byte) : Except ErrKind (List Byte) :=
  if R.length % 2 = 1 then .error .truncatedInput else rleDecFrom cap 0 R

/-- RLE_ENC applied to the buffers: `st.R <- RLE_ENC(st.M)` (44_pipeline.md R136). -/
def State.applyRleEnc (s : State) : Except ErrKind State := .ok { s with pairR := rleEnc s.rankM }

/-- RLE_DEC applied to the buffers: `st.M <- RLE_DEC(st.R)` (44_pipeline.md R142). -/
def State.applyRleDec (s : State) : Except ErrKind State :=
  match rleDec (capL s.cfg s.mode) s.pairR with
  | .ok M => .ok { s with rankM := M }
  | .error k => .error k

/-- RLE_ENC (42_rle.md R114). -/
def execRleEnc (s : State) : Result := s.settle .rle s.applyRleEnc

/-- RLE_DEC (42_rle.md R115). -/
def execRleDec (s : State) : Result := s.settle .rleInv s.applyRleDec

end Sys2Proof.Machine
end

