-- ==== Sys2Proof/Machine/Pipeline.lean ====
section
/-! DEFINITION. The block framing and the pipeline sequencer (44_pipeline.md): the engine step of each stage, which is
the meaning of the STAGE row. A stage that waits on the host keeps its state: the step holds (44_pipeline.md R129). -/

namespace Sys2Proof.Machine

/-- The stage's result with the sequencer's move: `stage <- S` (44_pipeline.md R134 to R136, R141 to R143). -/
def moveTo (S : Stage) : Except ErrKind State → Except ErrKind State
  | .ok t => .ok (t.setStage S)
  | .error k => .error k

/-- FRAME, the frame writer (44_pipeline.md R138; 30_encoding.md R82, R83). -/
def frameBytes (m : Mode) (pidx : Word) (tab pay : List Byte) : List Byte :=
  (match m with | .explicitIndex => be32 pidx.toNat | .sentinel => [])
    ++ be32 tab.length ++ tab ++ be32 pay.length ++ pay

/-! ### Compress direction -/

/-- IDLE: the engine takes no step (10_state.md R36; 60_exceptions.md R187). -/
def execIdle (s : State) : Result := .next s

/-- SPLIT: pop until the block has `min(st.bs, rem)` bytes, then on to BWT (44_pipeline.md R133; assumption logs 9, 20). -/
def execSplit (s : State) : Result :=
  if s.blk.length < s.latBs.toNat ∧ 0 < s.rem then
    match s.inPop with
    | some (b, t) => .next { t with blk := t.blk ++ [b] }
    | none => .next s
  else .next (s.setStage .bwt)

/-- BWT (44_pipeline.md R134). -/
def execBwt (s : State) : Result :=
  s.settle .bwt <| moveTo .mtf <|
    match s.mode with
    | .explicitIndex => s.applyBwtFwdExplicit
    | .sentinel => s.applyBwtFwdSentinel

/-- MTF (44_pipeline.md R135). -/
def execMtf (s : State) : Result := s.settle .mtf (moveTo .rle s.applyMtfEnc)

/-- RLE (44_pipeline.md R136). -/
def execRle (s : State) : Result := s.settle .rle (moveTo .entropy s.applyRleEnc)

/-- `st.pend <- FRAME(st)` (44_pipeline.md R137). -/
def State.queueFrame (s : State) : State := { s with pend := frameBytes s.mode s.pidx s.tab s.pay }

/-- ENTROPY (44_pipeline.md R137). -/
def execEntropy (s : State) : Result :=
  s.settle .entropy <| moveTo .framed <|
    match s.applyHufEnc with
    | .ok t => .ok t.queueFrame
    | .error k => .error k

/-- FRAMED (44_pipeline.md R139). -/
def execFramed (s : State) : Result := .next s.pushPending

/-! ### Decompress direction -/

/-- The `rem < 4` check before a four-byte field (44_pipeline.md R140). -/
def State.checkFour (next : FrameField) (s : State) : State :=
  if s.rem < 4 then s.raise .truncatedInput .unframe
  else { s with field := next, need := 4, fbuf := [] }

/-- One byte of a length or index field (44_pipeline.md R130, R140). -/
def State.takeFieldByte (s : State) : State :=
  match s.inPop with
  | some (b, t) => { t with fbuf := t.fbuf ++ [b], need := t.need - 1 }
  | none => s

/-- One byte of the code table (44_pipeline.md R140). -/
def State.takeTabByte (s : State) : State :=
  match s.inPop with
  | some (b, t) => { t with tab := t.tab ++ [b], need := t.need - 1 }
  | none => s

/-- One byte of the payload (44_pipeline.md R140). -/
def State.takePayByte (s : State) : State :=
  match s.inPop with
  | some (b, t) => { t with pay := t.pay ++ [b], need := t.need - 1 }
  | none => s

/-- The checks on codeTableLen (44_pipeline.md R140). -/
def State.checkTabLen (s : State) : State :=
  let tl := ofBE s.fbuf
  if tl > s.rem then s.raise .truncatedInput .unframe
  else if tl > maxTableBytes then s.raise .malformedCodeTable .unframe
  else { s with field := .tab, need := tl, tab := [] }

/-- The checks on payloadLen (44_pipeline.md R140). -/
def State.checkPayLen (s : State) : State :=
  let pl := ofBE s.fbuf
  if pl > s.rem then s.raise .truncatedInput .unframe
  else if pl = 0 then s.raise .truncatedInput .unframe
  else { s with field := .pay, need := pl, pay := [] }

/-- The step of UNFRAME at the field it stands at (44_pipeline.md R140; assumption logs 8, 9). -/
def State.unframeStep (s : State) : State :=
  match s.field with
  | .idxCheck => s.checkFour .idx
  | .idx =>
    if s.need = 0 then { s with pidx := BitVec.ofNat 32 (ofBE s.fbuf), field := .tabLenCheck }
    else s.takeFieldByte
  | .tabLenCheck => s.checkFour .tabLen
  | .tabLen => if s.need = 0 then s.checkTabLen else s.takeFieldByte
  | .tab => if s.need = 0 then { s with field := .payLenCheck } else s.takeTabByte
  | .payLenCheck => s.checkFour .payLen
  | .payLen => if s.need = 0 then s.checkPayLen else s.takeFieldByte
  | .pay => if s.need = 0 then s.setStage .entropyInv else s.takePayByte

/-- UNFRAME (44_pipeline.md R140). -/
def execUnframe (s : State) : Result := .next s.unframeStep

/-- ENTROPY_INV: TAB_PARSE, then HUF_DEC (44_pipeline.md R141). -/
def execEntropyInv (s : State) : Result :=
  match s.applyTabParse with
  | .ok t => t.settle .entropyInv (moveTo .rleInv t.applyHufDec)
  | .error k => .next (s.raise k .entropyInv)

/-- RLE_INV (44_pipeline.md R142). -/
def execRleInv (s : State) : Result := s.settle .rleInv (moveTo .mtfInv s.applyRleDec)

/-- MTF_INV (44_pipeline.md R143). -/
def execMtfInv (s : State) : Result := s.settle .mtfInv (moveTo .bwtInv s.applyMtfDec)

/-- `st.pend <- st.blk` (44_pipeline.md R144). -/
def State.queueBlock (s : State) : State := { s with pend := s.blk }

/-- BWT_INV (44_pipeline.md R144). -/
def execBwtInv (s : State) : Result :=
  s.settle .bwtInv <| moveTo .join <|
    match (match s.mode with
      | .explicitIndex => s.applyBwtInvExplicit
      | .sentinel => s.applyBwtInvSentinel) with
    | .ok t => .ok t.queueBlock
    | .error k => .error k

/-- JOIN (44_pipeline.md R145). -/
def execJoin (s : State) : Result := .next s.pushPending

/-- The step of DRAIN: discard one byte, or end the command (44_pipeline.md R147). -/
def State.drainStep (s : State) : State :=
  if s.rem = 0 then s.endDrain
  else match s.inPop with
    | some (_, t) => t
    | none => s

/-- DRAIN (44_pipeline.md R147). -/
def execDrain (s : State) : Result := .next s.drainStep

end Sys2Proof.Machine
end

