-- ==== Sys2Proof/Machine/Dispatch.lean ====
section
/-! DEFINITION. One arm per instruction of the opcode table. -/

namespace Sys2Proof.Machine

/-- The meaning of an instruction. -/
def exec (i : Instr) (s : State) : Host.Outcome State Fault Refusal :=
  match i with
  -- CMD
  | .nop => Sys2Proof.Machine.execNop s
  | .compress => Sys2Proof.Machine.execCompress s
  | .decompress => Sys2Proof.Machine.execDecompress s
  | .abort => Sys2Proof.Machine.execAbort s
  | .reservedCmd v => Sys2Proof.Machine.execReservedCmd v s
  -- STAGE
  | .idle => Sys2Proof.Machine.execIdle s
  | .split => Sys2Proof.Machine.execSplit s
  | .bwt => Sys2Proof.Machine.execBwt s
  | .mtf => Sys2Proof.Machine.execMtf s
  | .rle => Sys2Proof.Machine.execRle s
  | .entropy => Sys2Proof.Machine.execEntropy s
  | .framed => Sys2Proof.Machine.execFramed s
  | .unframe => Sys2Proof.Machine.execUnframe s
  | .entropyInv => Sys2Proof.Machine.execEntropyInv s
  | .rleInv => Sys2Proof.Machine.execRleInv s
  | .mtfInv => Sys2Proof.Machine.execMtfInv s
  | .bwtInv => Sys2Proof.Machine.execBwtInv s
  | .join => Sys2Proof.Machine.execJoin s
  | .drain => Sys2Proof.Machine.execDrain s
  -- STAGE_OP
  | .bwtFwdExplicit => Sys2Proof.Machine.execBwtFwdExplicit s
  | .bwtFwdSentinel => Sys2Proof.Machine.execBwtFwdSentinel s
  | .bwtInvExplicit => Sys2Proof.Machine.execBwtInvExplicit s
  | .bwtInvSentinel => Sys2Proof.Machine.execBwtInvSentinel s
  | .mtfEnc => Sys2Proof.Machine.execMtfEnc s
  | .mtfDec => Sys2Proof.Machine.execMtfDec s
  | .rleEnc => Sys2Proof.Machine.execRleEnc s
  | .rleDec => Sys2Proof.Machine.execRleDec s
  | .hufEnc => Sys2Proof.Machine.execHufEnc s
  | .hufDec => Sys2Proof.Machine.execHufDec s
  | .tabParse => Sys2Proof.Machine.execTabParse s
  -- HOST
  | .regRead off => Sys2Proof.Machine.execRegRead off s
  | .regWrite off data => Sys2Proof.Machine.execRegWrite off data s
  | .inPush b => Sys2Proof.Machine.execInPush b s
  | .outPop => Sys2Proof.Machine.execOutPop s
  | .reset => Sys2Proof.Machine.execReset s

end Sys2Proof.Machine
end

