-- ==== Sys2Proof/Machine/Engine.lean ====
section
/-! DEFINITION. What the step does in a turn of the engine and in a turn of the host (10_state.md R25; 45_commands.md
R168), and how a word of the opcode table is put where the next step reads it. -/

namespace Sys2Proof.Machine

/-- The instruction of a stage, as the decoder reads its code (10_state.md R36). -/
def Stage.instr (S : Stage) : Instr :=
  match decodeStage S.code with
  | .ok i => i
  | .error _ => .idle

/-- A turn of the engine: no step with BUSY = 0 (60_exceptions.md R187); the block boundary step where one is due
(44_pipeline.md R132); else one step of the stage (44_pipeline.md R129). -/
def engineTurn (s : State) : Result :=
  if s.busy then
    if s.boundary then .next s.boundaryStep
    else exec s.stage.instr s
  else exec .idle s

/-- What CORE answers to a host action that the decoder rejects, which is only an illegal register access: a bus
error (20_memory.md R62). -/
def State.answerRejected (h : HostOp) (s : State) : State :=
  match h with
  | .read _ _ => s.busErrorRead
  | .write _ _ => s.busErrorWrite
  | .command _ | .push _ | .pop | .reset => s

/-- A turn of the host: the action's instruction (45_commands.md R168). -/
def hostTurn (h : HostOp) (s : State) : Result :=
  match decode (.host h) with
  | .ok i => exec i s
  | .error _ => .next (s.answerRejected h)

/-- A host action as the next turn. -/
def State.scheduleHost (h : HostOp) (s : State) : State := { s with sched := .host h :: s.sched }

/-- The engine selected at a stage, as its next turn: IDLE goes with BUSY = 0, every other stage with BUSY = 1
(10_state.md R36). -/
def State.selectStage (S : Stage) (s : State) : State :=
  { s with
    busy := S != .idle
    stage := S
    boundary := false
    sched := .engine :: s.sched }

/-- The mode of the 5-bit value `STATUS.MODE << 4 | STATUS.STAGE` (30_encoding.md R79). -/
def State.selectMode (bit : Bool) (s : State) : State :=
  { s with mode := if bit then .sentinel else .explicitIndex }

/-- The state in which the next step runs the instruction of a code word (assumption log 23). -/
def State.placeCode (c : Code) (s : State) : State :=
  match c with
  | .host h => s.scheduleHost h
  | .stage c =>
    match Stage.ofCode? c with
    | some S => s.selectStage S
    | none => s
  | .stageOp c _ =>
    match Stage.ofCode? (BitVec.ofNat 4 c.toNat) with
    | some S => (s.selectStage S).selectMode (c.getLsbD 4)
    | none => s

end Sys2Proof.Machine
end

