-- ==== Sys2Proof/Machine/Step.lean ====
section
/-! DEFINITION. One step of the machine: the next turn of the schedule, the engine's where there is none
(45_commands.md R168; assumption log 3). -/

namespace Sys2Proof.Machine

/-- One atomic action. -/
def step (s : State) : Host.Outcome State Fault Refusal :=
  match s.sched with
  | [] => engineTurn s
  | .engine :: rest => engineTurn (s.setSched rest)
  | .host h :: rest => hostTurn h (s.setSched rest)

/-- The state in which the next step runs the instruction of a word of the opcode table (assumption logs 14, 23). -/
def State.withFetchWord (s : State) (nbits w : Nat) : State :=
  match tableCode nbits w with
  | some c => s.placeCode c
  | none => s

end Sys2Proof.Machine
end

