-- ==== Sys2Proof/Machine/Stream.lean ====
section
/-! DEFINITION. The whole-command functions of 44_pipeline.md section 2: what a command that is not aborted computes
from its input. No meaning calls them; statements about commands are stated through them. -/

namespace Sys2Proof.Machine

/-- The outcome of a command: its output, the blocks or frames wholly output, and the error with its stage
(44_pipeline.md R150, R151). -/
structure StreamResult where
  output : List Byte
  blocks : Nat
  err : Option (ErrKind × Stage)
  deriving DecidableEq, Repr

/-- Blocks of `bs` bytes, the last one shorter; `n` bounds their number (44_pipeline.md R150). -/
def splitFrom (bs : Nat) : Nat → List Byte → List (List Byte)
  | n + 1, d :: ds => (d :: ds).take bs :: splitFrom bs n ((d :: ds).drop bs)
  | _, _ => []

/-- The blocks of an input (44_pipeline.md R133, R150). -/
def splitBlocks (bs : Nat) (D : List Byte) : List (List Byte) := splitFrom bs D.length D

/-- The frame of a column (44_pipeline.md R135 to R138). -/
def frameOfColumn (m : Mode) (p : Word) (L : List Byte) : List Byte :=
  frameBytes m p (hufEnc (rleEnc (mtfEnc L).1)).1 (hufEnc (rleEnc (mtfEnc L).1)).2

/-- The frame of a block, or the collision (44_pipeline.md R150). -/
def compressBlock (m : Mode) (B : List Byte) : Except ErrKind (List Byte) :=
  match m with
  | .explicitIndex => .ok (frameOfColumn m (bwtFwdExplicit B).2 (bwtFwdExplicit B).1)
  | .sentinel =>
    match bwtFwdSentinel B with
    | .ok L => .ok (frameOfColumn m 0 L)
    | .error k => .error k

/-- The blocks in order, up to the first failure (44_pipeline.md R150). -/
def compressBlocks (m : Mode) : List (List Byte) → StreamResult
  | [] => ⟨[], 0, none⟩
  | B :: Bs =>
    match compressBlock m B with
    | .ok f => ⟨f ++ (compressBlocks m Bs).output, (compressBlocks m Bs).blocks + 1, (compressBlocks m Bs).err⟩
    | .error k => ⟨[], 0, some (k, .bwt)⟩

/-- What COMPRESS computes (44_pipeline.md R150). -/
def compressStream (m : Mode) (bs : Nat) (D : List Byte) : StreamResult := compressBlocks m (splitBlocks bs D)

/-- One frame's fields (30_encoding.md R82, R83). -/
structure Frame where
  pidx : Nat
  tab : List Byte
  pay : List Byte
  deriving DecidableEq, Repr

/-- A big-endian u32 and the bytes after it; none with fewer than four bytes left (44_pipeline.md R140). -/
def takeU32 (D : List Byte) : Option (Nat × List Byte) :=
  if D.length < 4 then none else some (ofBE (D.take 4), D.drop 4)

/-- The frame after the primary index (44_pipeline.md R140). -/
def readBody (p : Nat) (D : List Byte) : Except ErrKind (Frame × List Byte) :=
  match takeU32 D with
  | none => .error .truncatedInput
  | some (tl, D2) =>
    if tl > D2.length then .error .truncatedInput
    else if tl > maxTableBytes then .error .malformedCodeTable
    else match takeU32 (D2.drop tl) with
      | none => .error .truncatedInput
      | some (pl, D3) =>
        if pl > D3.length then .error .truncatedInput
        else if pl = 0 then .error .truncatedInput
        else .ok (⟨p, D2.take tl, D3.take pl⟩, D3.drop pl)

/-- One frame from the front of the input, with the checks of UNFRAME in their order (44_pipeline.md R140). -/
def readFrame (m : Mode) (D : List Byte) : Except ErrKind (Frame × List Byte) :=
  match m with
  | .sentinel => readBody 0 D
  | .explicitIndex =>
    match takeU32 D with
    | none => .error .truncatedInput
    | some (p, D1) => readBody p D1

/-- The column of a frame, with the stage that fails (44_pipeline.md R151, R152). -/
def columnOfFrame (c : Config) (m : Mode) (f : Frame) : Except (ErrKind × Stage) (List Byte) :=
  match tabParse f.tab with
  | .error k => .error (k, .entropyInv)
  | .ok codes =>
    match hufDec codes (capR c m) f.pay with
    | .error k => .error (k, .entropyInv)
    | .ok R =>
      match rleDec (capL c m) R with
      | .error k => .error (k, .rleInv)
      | .ok M => .ok (mtfDec M).1

/-- The block of a frame, with the stage that fails (44_pipeline.md R151, R152). -/
def decompressFrame (c : Config) (m : Mode) (f : Frame) : Except (ErrKind × Stage) (List Byte) :=
  match columnOfFrame c m f with
  | .error e => .error e
  | .ok L =>
    match (match m with | .explicitIndex => bwtInvExplicit L f.pidx | .sentinel => bwtInvSentinel L) with
    | .ok B => .ok B
    | .error k => .error (k, .bwtInv)

/-- The frames in order, up to the first failure; `n` bounds their number (44_pipeline.md R151). -/
def decompressFrom (c : Config) (m : Mode) : Nat → List Byte → StreamResult
  | n + 1, d :: ds =>
    match readFrame m (d :: ds) with
    | .error k => ⟨[], 0, some (k, .unframe)⟩
    | .ok (f, rest) =>
      match decompressFrame c m f with
      | .error e => ⟨[], 0, some e⟩
      | .ok B =>
        ⟨B ++ (decompressFrom c m n rest).output, (decompressFrom c m n rest).blocks + 1,
          (decompressFrom c m n rest).err⟩
  | _, _ => ⟨[], 0, none⟩

/-- What DECOMPRESS computes (44_pipeline.md R151). -/
def decompressStream (c : Config) (m : Mode) (D : List Byte) : StreamResult := decompressFrom c m D.length D

end Sys2Proof.Machine
end

