-- ==== Sys2Proof/Safety.lean ====
section
/-! DEFINITION. The terms statements about CORE are made in: what reset leaves, the invariants every step keeps, the
data errors and the stages that raise them, which buffers a stage still reads. -/

namespace Sys2Proof.Machine

/-! ### Reset -/

/-- The values the table of 70_reset_and_hazards.md R188 gives, in configuration `c`. -/
abbrev State.HasResetValues (c : Config) (s : State) : Prop :=
  s.cfg = c ∧ s.ctrl = 0 ∧ s.blockSize = BitVec.ofNat 32 c.maxBlockSize ∧ s.inLen = 0 ∧ s.statusWord = 0 ∧
  s.errInfo = 0 ∧ s.errBlock = 0 ∧ s.blockCount = 0 ∧ s.inCount = 0 ∧ s.outCount = 0 ∧ s.outCommit = 0 ∧
  s.irq = false ∧ s.inFifo = [] ∧ s.outFifo = [] ∧ s.inAccepted = 0 ∧ s.op = .compress ∧
  s.mode = .explicitIndex ∧ s.latBs = BitVec.ofNat 32 c.maxBlockSize ∧ s.latLen = 0 ∧ s.stage = .idle ∧
  s.errored = false ∧
  s.readReg 0x00 = c.idValue ∧ s.readReg 0x10 = 0 ∧ s.readReg 0x30 = BitVec.ofNat 32 c.maxBlockSize ∧
  s.readReg 0x34 = 0 ∧ s.readReg 0x38 = 0 ∧ s.readReg 0x3C = 0

/-! ### Turns -/

/-- The next turn of `s` is the engine's, in one of its two forms: nothing is scheduled, or the engine stands first; `u` is
the state with the turn taken off (assumption log 3). -/
def State.EngineNext (s u : State) : Prop :=
  (s.sched = [] ∧ u = s) ∨ ∃ rest, s.sched = .engine :: rest ∧ u = { s with sched := rest }

/-! ### The code tree -/

/-- The order of the priority queue: weight, then insertion order (43_huffman.md R119). -/
def QItem.Before (a b : QItem) : Prop := a.weight < b.weight ∨ (a.weight = b.weight ∧ a.seq < b.seq)

/-- The loop of HUF_BUILD as 43_huffman.md R119 has it, over a queue in any order: while two entries are left, the first
extracted becomes the left child and the second the right one of a node with the next sequence number. -/
inductive MergesTo : Nat → List QItem → Tree → Prop
  | root (seq : Nat) (x : QItem) : MergesTo seq [x] x.tree
  | merge (seq : Nat) (q rest : List QItem) (a b : QItem) (t : Tree) (perm : q.Perm (a :: b :: rest))
      (first : ∀ x ∈ b :: rest, a.Before x) (second : ∀ x ∈ rest, b.Before x)
      (next : MergesTo (seq + 1) (⟨a.weight + b.weight, seq, .node a.tree b.tree⟩ :: rest) t) : MergesTo seq q t

/-- The leaf a path leads to, 0 for a left edge and 1 for a right one (43_huffman.md R120). -/
def Tree.leafAt : Tree → Bits → Option Byte
  | .leaf s, [] => some s
  | .leaf _, _ :: _ => none
  | .node _ _, [] => none
  | .node l r, b :: w => if b then r.leafAt w else l.leafAt w

/-! ### Tables and payloads, as the data formats describe them -/

/-- A code map a table may hold: at most 256 symbols, strictly ascending, codes of 1 to 255 bits, none a prefix of another
(30_encoding.md R84; 43_huffman.md R125). -/
def LegalCodes (c : Codes) : Prop :=
  c.length ≤ 256 ∧ (c.Pairwise fun a b => a.1.toNat < b.1.toNat) ∧
  (∀ e ∈ c, 1 ≤ e.2.length ∧ e.2.length ≤ 255) ∧
  c.Pairwise fun a b => ¬a.2 <+: b.2 ∧ ¬b.2 <+: a.2

/-- The bits w are the codes of the symbols R, one after the other (43_huffman.md R123). -/
def Spells (c : Codes) (R : List Byte) (w : Bits) : Prop :=
  ∃ ws : List Bits, List.Forall₂ (fun s u => (s, u) ∈ c) R ws ∧ w = ws.flatten

/-- A payload of the meaningful bits w and the bits `fill` after them, 0 to 7, whose number is the first byte
(30_encoding.md R85). -/
def PayloadOf (P : List Byte) (w fill : Bits) : Prop :=
  fill.length ≤ 7 ∧ ∃ packed, P = BitVec.ofNat 8 fill.length :: packed ∧ unpackBits packed = w ++ fill

/-- The payload decodes to R: its bits spell R, which fits, and its fill bits are 0 (43_huffman.md R126). -/
def HufDecodes (c : Codes) (cap : Nat) (P R : List Byte) : Prop :=
  ∃ w fill, PayloadOf P w fill ∧ Spells c R w ∧ R.length ≤ cap ∧ ∀ b ∈ fill, b = false

/-- The conditions of 60_exceptions.md R170 on a payload read with a legal code map, with the ERR_INFO each gives at
ENTROPY_INV (43_huffman.md R126). -/
inductive HufFails (c : Codes) (cap : Nat) (P : List Byte) : Word → Prop
  /-- The pad length is above 7 or above the bits present, or there is no pad byte (assumption log 11). -/
  | pad (h : ¬∃ w fill, PayloadOf P w fill) : HufFails c cap P 0x803
  /-- More symbols than an RLE stream can hold. -/
  | capacity (w fill v : Bits) (R : List Byte) (h : PayloadOf P w fill) (spelt : Spells c R v) (front : v <+: w)
      (many : R.length = cap + 1) : HufFails c cap P 0x802
  /-- After some symbols, bits that begin no code and that no code begins: one of them leaves the code trie. -/
  | leaves (w fill v u : Bits) (R : List Byte) (h : PayloadOf P w fill) (spelt : Spells c R v) (few : R.length ≤ cap)
      (front : v ++ u <+: w) (out : ∀ e ∈ c, ¬u <+: e.2 ∧ ¬e.2 <+: u) (some : u ≠ []) : HufFails c cap P 0x803
  /-- After some symbols, the bits end inside a code. -/
  | ends (w fill v u : Bits) (R : List Byte) (e : Byte × Bits) (h : PayloadOf P w fill) (spelt : Spells c R v)
      (few : R.length ≤ cap) (all : w = v ++ u) (mem : e ∈ c) (inside : u <+: e.2) (proper : u ≠ e.2) (some : u ≠ []) :
      HufFails c cap P 0x803
  /-- All bits spell symbols, and a fill bit is 1. -/
  | fill (w fill : Bits) (R : List Byte) (h : PayloadOf P w fill) (spelt : Spells c R w) (few : R.length ≤ cap)
      (one : true ∈ fill) : HufFails c cap P 0x803

/-- The stream of some (count, value) pairs (30_encoding.md R86). -/
def pairStream (ps : List (Byte × Byte)) : List Byte := ps.flatMap fun p => [p.1, p.2]

/-! ### Stages -/

/-- The stages of a COMPRESS (10_state.md R36). -/
def Stage.ofCompress : Stage → Bool
  | .split | .bwt | .mtf | .rle | .entropy | .framed => true
  | .idle | .unframe | .entropyInv | .rleInv | .mtfInv | .bwtInv | .join | .drain => false

/-- The stages of a DECOMPRESS (10_state.md R36). -/
def Stage.ofDecompress : Stage → Bool
  | .unframe | .entropyInv | .rleInv | .mtfInv | .bwtInv | .join => true
  | .idle | .split | .bwt | .mtf | .rle | .entropy | .framed | .drain => false

/-- The stages that push output (44_pipeline.md R139, R145). -/
def Stage.pushes : Stage → Bool
  | .framed | .join => true
  | .idle | .split | .bwt | .mtf | .rle | .entropy => false
  | .unframe | .entropyInv | .rleInv | .mtfInv | .bwtInv | .drain => false

/-- The stages in which a block boundary step can be due: those a command starts in, and those that end a block
(44_pipeline.md R132). -/
def Stage.atBoundary : Stage → Bool
  | .split | .framed | .unframe | .join => true
  | .idle | .bwt | .mtf | .rle | .entropy | .entropyInv | .rleInv | .mtfInv | .bwtInv | .drain => false

/-! ### The data errors -/

/-- The state after error entry with ERR_INFO `w`, written out (60_exceptions.md R172). -/
def State.errorEntry (w : Word) (s : State) : State :=
  { s with errInfo := w, errBlock := s.blockCount, err := true, errored := true, stage := .drain }

/-- The data errors of the stages that read the input or the block (60_exceptions.md R170). -/
def raiseTableIn : List (Instr × ErrKind × Stage) :=
  [(.bwt, .sentinelCollision, .bwt), (.bwtFwdSentinel, .sentinelCollision, .bwt),
   (.unframe, .truncatedInput, .unframe), (.unframe, .malformedCodeTable, .unframe)]

/-- The data errors of ENTROPY_INV (60_exceptions.md R170). -/
def raiseTableEntropyInv : List (Instr × ErrKind × Stage) :=
  [(.entropyInv, .malformedCodeTable, .entropyInv), (.tabParse, .malformedCodeTable, .entropyInv),
   (.entropyInv, .invalidCode, .entropyInv), (.hufDec, .invalidCode, .entropyInv),
   (.entropyInv, .corruptBlock, .entropyInv), (.hufDec, .corruptBlock, .entropyInv)]

/-- The data errors of RLE_INV and BWT_INV (60_exceptions.md R170). -/
def raiseTableInverse : List (Instr × ErrKind × Stage) :=
  [(.rleInv, .truncatedInput, .rleInv), (.rleDec, .truncatedInput, .rleInv),
   (.rleInv, .corruptBlock, .rleInv), (.rleDec, .corruptBlock, .rleInv),
   (.bwtInv, .corruptBlock, .bwtInv), (.bwtInvExplicit, .corruptBlock, .bwtInv),
   (.bwtInvSentinel, .corruptBlock, .bwtInv)]

/-- Every data error with the stage that raises it, by the STAGE or STAGE_OP row that finds it (60_exceptions.md R170). -/
def raiseTable : List (Instr × ErrKind × Stage) := raiseTableIn ++ raiseTableEntropyInv ++ raiseTableInverse

/-! ### The invariants -/

/-- The register window: reserved bits of CTRL 0 (10_state.md R44), BLOCK_SIZE legal (R32), ERR_INFO 0 or a row of
the error table (R37; 60_exceptions.md R170). -/
abbrev State.RegistersOk (s : State) : Prop :=
  s.ctrl.toNat < 8 ∧
  (1 ≤ s.blockSize.toNat ∧ s.blockSize.toNat ≤ s.cfg.maxBlockSize) ∧
  (s.errInfo = 0 ∨ s.errInfo ∈ raiseTable.map fun r => errWord r.2.1 r.2.2)

/-- The ports: FIFO bounds (10_state.md R47, R48), `IN_COUNT ≤ st.in_accepted ≤ st.inlen` (45_commands.md R165), every
accepted byte popped or in the FIFO while BUSY, the IN FIFO empty while not BUSY (45_commands.md R155). -/
abbrev State.PortsOk (s : State) : Prop :=
  s.inFifo.length ≤ s.cfg.inFifoDepth ∧ s.outFifo.length ≤ s.cfg.outFifoDepth ∧
  s.inAccepted.toNat ≤ s.latLen.toNat ∧ s.inCount.toNat ≤ s.inAccepted.toNat ∧
  (s.busy = true → s.inCount.toNat + s.inFifo.length = s.inAccepted.toNat) ∧
  (s.busy = false → s.inFifo = [])

/-- The sequencer: STAGE is IDLE exactly while BUSY = 0 (10_state.md R36), the stage is one of the command's direction
(R131), DRAIN exactly after an error (60_exceptions.md R172), a boundary step is due only at a block boundary
(44_pipeline.md R132), `st.bs` legal (10_state.md R49), the alphabet a permutation (10_state.md R51). -/
abbrev State.SequencerOk (s : State) : Prop :=
  (s.busy = true ↔ s.stage ≠ .idle) ∧
  (s.stage.ofCompress = true → s.op = .compress) ∧ (s.stage.ofDecompress = true → s.op = .decompress) ∧
  (s.busy = true → (s.errored = true ↔ s.stage = .drain)) ∧
  (s.boundary = true → s.stage.atBoundary = true) ∧
  (1 ≤ s.latBs.toNat ∧ s.latBs.toNat ≤ s.cfg.maxBlockSize) ∧
  (s.alpha.length = 256 ∧ s.alpha.Nodup)

/-- How a command ends: DONE only out of a command and with its counts complete (44_pipeline.md R148), never with ERR
(60_exceptions.md R177), ERR only after an error, output past OUT_COMMIT only while a frame or block is being pushed
(60_exceptions.md R173). -/
abbrev State.EndsOk (s : State) : Prop :=
  (s.done = true → s.busy = false ∧ s.inCount = s.latLen ∧ s.outCommit = s.outCount ∧ s.errored = false) ∧
  (s.err = true → s.errored = true) ∧
  (s.busy = true → (s.stage.pushes = false ∨ s.boundary = true) → s.outCommit = s.outCount)

/-- The invariant of CORE. -/
abbrev State.Inv (s : State) : Prop :=
  s.cfg.Legal ∧ s.RegistersOk ∧ s.PortsOk ∧ s.SequencerOk ∧ s.EndsOk

/-- UNFRAME's buffers at the field it stands at (44_pipeline.md R140). -/
def State.frameFits (s : State) : Bool :=
  match s.field with
  | .idxCheck | .tabLenCheck => true
  | .idx | .tabLen => s.need + s.fbuf.length == 4
  | .tab => decide (s.tab.length + s.need ≤ maxTableBytes)
  | .payLenCheck => decide (s.tab.length ≤ maxTableBytes)
  | .payLen => decide (s.tab.length ≤ maxTableBytes) && s.need + s.fbuf.length == 4
  | .pay => decide (s.tab.length ≤ maxTableBytes) && decide (1 ≤ s.pay.length + s.need)

/-- What each stage may rely on of the buffers it reads: the sizes of 10_state.md R50 and the operand ranges of files
40 to 43. -/
def State.stageFits (s : State) : Bool :=
  match s.stage with
  | .idle | .drain | .framed => true
  | .split => decide (s.blk.length ≤ s.latBs.toNat) && decide (0 < s.blk.length + s.rem)
  | .bwt => decide (1 ≤ s.blk.length) && decide (s.blk.length ≤ s.latBs.toNat)
  | .mtf => decide (1 ≤ s.colL.length) && decide (s.colL.length ≤ capL s.cfg s.mode)
  | .rle => decide (1 ≤ s.rankM.length) && decide (s.rankM.length ≤ capL s.cfg s.mode)
  | .entropy => decide (2 ≤ s.pairR.length) && decide (s.pairR.length ≤ capR s.cfg s.mode)
  | .unframe => s.frameFits
  | .entropyInv => decide (s.tab.length ≤ maxTableBytes) && decide (1 ≤ s.pay.length)
  | .rleInv => decide (s.pairR.length ≤ capR s.cfg s.mode)
  | .mtfInv => decide (s.rankM.length ≤ capL s.cfg s.mode)
  | .bwtInv => decide (s.colL.length ≤ capL s.cfg s.mode)
  | .join => decide (s.pend.length ≤ s.cfg.maxBlockSize)

/-- The buffers of the running stage fit (10_state.md R50; 60_exceptions.md R181). -/
abbrev State.BuffersFit (s : State) : Prop :=
  s.busy = true → s.boundary = false → s.stageFits = true

/-! ### What a later step can still read -/

/-- The state with every working buffer, the alphabet and UNFRAME's marks at fixed values. -/
def State.forget (s : State) : State :=
  { s with
    blk := [], colL := [], pidx := 0, rankM := [], pairR := [], codes := [], tab := [], pay := [], pend := []
    need := 0, alpha := [], field := .idxCheck, fbuf := [] }

/-- The primary index as far as a frame of the latched mode has one (10_state.md R50). -/
def State.liveIndex (s : State) : Word :=
  match s.mode with
  | .explicitIndex => s.pidx
  | .sentinel => 0

/-- UNFRAME's live buffers at the field it stands at (44_pipeline.md R140). -/
def State.liveFrame (s : State) : State :=
  match s.field with
  | .idxCheck => { s.forget with field := s.field }
  | .idx => { s.forget with field := s.field, need := s.need, fbuf := s.fbuf }
  | .tabLenCheck => { s.forget with field := s.field, pidx := s.liveIndex }
  | .tabLen => { s.forget with field := s.field, pidx := s.liveIndex, need := s.need, fbuf := s.fbuf }
  | .tab => { s.forget with field := s.field, pidx := s.liveIndex, need := s.need, tab := s.tab }
  | .payLenCheck => { s.forget with field := s.field, pidx := s.liveIndex, tab := s.tab }
  | .payLen =>
    { s.forget with field := s.field, pidx := s.liveIndex, tab := s.tab, need := s.need, fbuf := s.fbuf }
  | .pay => { s.forget with field := s.field, pidx := s.liveIndex, tab := s.tab, need := s.need, pay := s.pay }

/-- The state with every buffer that the rest of the block writes before it reads put at a fixed value (44_pipeline.md
R149): two states with one live part differ in nothing that is still read. -/
def State.live (s : State) : State :=
  if s.boundary then s.forget
  else match s.stage with
    | .idle | .drain => s.forget
    | .split | .bwt => { s.forget with blk := s.blk }
    | .mtf | .bwtInv => { s.forget with colL := s.colL, pidx := s.liveIndex }
    | .rle | .mtfInv => { s.forget with rankM := s.rankM, pidx := s.liveIndex }
    | .entropy | .rleInv => { s.forget with pairR := s.pairR, pidx := s.liveIndex }
    | .framed | .join => { s.forget with pend := s.pend }
    | .unframe => s.liveFrame
    | .entropyInv => { s.forget with tab := s.tab, pay := s.pay, pidx := s.liveIndex }

/-! ### A command with its input in the port -/

/-- Just after command start, with the whole input in the IN FIFO and no host action to come: the state from which
the whole-command functions of 44_pipeline.md section 2 say what the engine computes. -/
def State.loaded (o : Op) (D : List Byte) (s : State) : State :=
  { s.commandStart o with inFifo := D, inAccepted := BitVec.ofNat 33 D.length, sched := [] }

/-- The state at the end of a command that computed `r` from an input of `n` bytes, started over the output FIFO
`out0` (44_pipeline.md R150, R151). -/
structure State.Ended (t : State) (r : StreamResult) (n : Nat) (out0 : List Byte) : Prop where
  busy : t.busy = false
  stage : t.stage = .idle
  output : t.outFifo = out0 ++ r.output
  inCount : t.inCount = BitVec.ofNat 32 n
  outCount : t.outCount = BitVec.ofNat 32 r.output.length
  outCommit : t.outCommit = t.outCount
  blockCount : t.blockCount = BitVec.ofNat 32 r.blocks
  onDone : r.err = none → t.done = true ∧ t.err = false ∧ t.errInfo = 0 ∧ t.errBlock = 0
  onError : ∀ k S, r.err = some (k, S) →
    t.err = true ∧ t.done = false ∧ t.errInfo = errWord k S ∧ t.errBlock = BitVec.ofNat 32 r.blocks

end Sys2Proof.Machine
end

