-- ==== Sys2Proof/Certificates/Slice0/Obligations.lean ====
section
/-! DEFINITION. The statements about CORE, for the provers. A statement of what an instruction does gives the whole
next state, so it is the instruction's frame too: what the record does not name is unchanged. CORE has no
byte-addressed memory (20_memory.md R55). -/

open Sys2Proof Sys2Proof.Machine

/-! ### Reset -/

/-- R188, R167: the reset state of every configuration has the values of the table, and the reset input takes any
state, in or out of a command, to them. -/
def Obligations.ResetGivesTheTableValues : Prop :=
  (∀ c : Config, State.HasResetValues c (State.resetOf c)) ∧
  (∀ s : State, ∃ t, exec .reset s = .next t ∧ State.HasResetValues s.cfg t)

/-! ### Commands -/

/-- R156: the CMD value 0 is NOP, and NOP does nothing, idle or busy. -/
def Obligations.NopChangesNothing : Prop :=
  decode (.host (.command 0)) = .ok .nop ∧ ∀ s : State, exec .nop s = .next s

/-- R155, R157, R158: COMPRESS and DECOMPRESS with BUSY = 0 are command start. That a boundary step is due is the
model's field for R132 (assumption log 8). -/
def Obligations.IdleStartLatchesAndClears : Prop :=
  ∀ s : State, s.busy = false →
    exec .compress s = .next { s with
      op := .compress, mode := if s.ctrl.getLsbD 0 then .sentinel else .explicitIndex
      latBs := s.blockSize, latLen := s.inLen, inAccepted := 0, errored := false
      done := false, err := false, aborted := false, errInfo := 0, errBlock := 0
      blockCount := 0, inCount := 0, outCount := 0, outCommit := 0
      busy := true, stage := .split, boundary := true } ∧
    exec .decompress s = .next { s with
      op := .decompress, mode := if s.ctrl.getLsbD 0 then .sentinel else .explicitIndex
      latBs := s.blockSize, latLen := s.inLen, inAccepted := 0, errored := false
      done := false, err := false, aborted := false, errInfo := 0, errBlock := 0
      blockCount := 0, inCount := 0, outCount := 0, outCommit := 0
      busy := true, stage := .unframe, boundary := true }

/-- R157, R158, R160: a start while BUSY = 1, and a reserved value at any time, set CMD_ERR and nothing else. -/
def Obligations.RefusedCommandsSetOnlyCmdErr : Prop :=
  (∀ s : State, s.busy = true →
    exec .compress s = .next { s with cmdErr := true } ∧
    exec .decompress s = .next { s with cmdErr := true }) ∧
  (∀ (s : State) (v : Word), exec (.reservedCmd v) s = .next { s with cmdErr := true })

/-- R159: ABORT stops a running command and flushes the IN FIFO; with BUSY = 0 it does nothing. The cleared boundary
mark is the model's choice (assumption log 22). -/
def Obligations.AbortStopsTheEngine : Prop :=
  (∀ s : State, s.busy = true →
    exec .abort s = .next { s with
      inFifo := [], aborted := true, busy := false, stage := .idle, boundary := false }) ∧
  (∀ s : State, s.busy = false → exec .abort s = .next s)

/-- R77, R154: a value written to CMD is decoded on the whole word, and the write performs the operation it is
decoded to, exactly one (`resp` is the model's, assumption log 4). -/
def Obligations.CommandWriteRunsTheDecodedCommand : Prop :=
  (decodeCommand 0 = .nop ∧ decodeCommand 1 = .compress ∧ decodeCommand 2 = .decompress ∧ decodeCommand 3 = .abort ∧
    ∀ v : Word, 4 ≤ v.toNat → decodeCommand v = .reservedCmd v) ∧
  (∀ (s : State) (v : Word), ∃ t,
    exec (decodeCommand v) s = .next t ∧ exec (.regWrite 0x10 v) s = .next { t with resp := .done })

/-! ### The register window -/

/-- R161: what a legal register read returns, and that it changes nothing else. `resp` is where the model holds what an
access returns (assumption log 4). -/
def Obligations.RegisterReadsReturnTheRegister : Prop :=
  ∀ s : State,
    exec (.regRead 0x00) s = .next { s with resp := .data s.cfg.idValue } ∧
    exec (.regRead 0x04) s = .next { s with resp := .data s.ctrl } ∧
    exec (.regRead 0x08) s = .next { s with resp := .data s.blockSize } ∧
    exec (.regRead 0x0C) s = .next { s with resp := .data s.inLen } ∧
    exec (.regRead 0x10) s = .next { s with resp := .data 0 } ∧
    exec (.regRead 0x14) s = .next { s with resp := .data (BitVec.ofNat 32
      (s.busy.toNat ||| s.done.toNat <<< 1 ||| s.err.toNat <<< 2 ||| s.cmdErr.toNat <<< 3 |||
        s.aborted.toNat <<< 4 ||| s.stage.code.toNat <<< 8 ||| s.op.bit.toNat <<< 12 |||
        s.mode.bit.toNat <<< 13 ||| s.irq.toNat <<< 14)) } ∧
    exec (.regRead 0x18) s = .next { s with resp := .data s.errInfo } ∧
    exec (.regRead 0x1C) s = .next { s with resp := .data s.errBlock } ∧
    exec (.regRead 0x20) s = .next { s with resp := .data s.blockCount } ∧
    exec (.regRead 0x24) s = .next { s with resp := .data s.inCount } ∧
    exec (.regRead 0x28) s = .next { s with resp := .data s.outCount } ∧
    exec (.regRead 0x2C) s = .next { s with resp := .data s.outCommit } ∧
    exec (.regRead 0x30) s = .next { s with resp := .data (BitVec.ofNat 32 s.cfg.maxBlockSize) } ∧
    exec (.regRead 0x34) s = .next { s with resp := .data 0 } ∧
    exec (.regRead 0x38) s = .next { s with resp := .data 0 } ∧
    exec (.regRead 0x3C) s = .next { s with resp := .data 0 }

/-- R162: what a legal register write does at every offset (`resp` is the model's, assumption log 4). -/
def Obligations.RegisterWritesStoreByTheFieldRules : Prop :=
  ∀ (s : State) (v : Word),
    exec (.regWrite 0x04 v) s = .next { s with ctrl := v &&& 7, resp := .done } ∧
    (1 ≤ v.toNat → v.toNat ≤ s.cfg.maxBlockSize →
      exec (.regWrite 0x08 v) s = .next { s with blockSize := v, resp := .done }) ∧
    ((v.toNat = 0 ∨ s.cfg.maxBlockSize < v.toNat) → exec (.regWrite 0x08 v) s = .next { s with resp := .done }) ∧
    exec (.regWrite 0x0C v) s = .next { s with inLen := v, resp := .done } ∧
    (∃ t, exec (decodeCommand v) s = .next t ∧ exec (.regWrite 0x10 v) s = .next { t with resp := .done }) ∧
    exec (.regWrite 0x14 v) s = .next { s with
      done := s.done && !v.getLsbD 1, err := s.err && !v.getLsbD 2
      cmdErr := s.cmdErr && !v.getLsbD 3, aborted := s.aborted && !v.getLsbD 4, resp := .done } ∧
    ∀ off ∈ ([0x00, 0x18, 0x1C, 0x20, 0x24, 0x28, 0x2C, 0x30, 0x34, 0x38, 0x3C] : List (BitVec 6)),
      exec (.regWrite off v) s = .next { s with resp := .done }

/-- R62: an access of another size or alignment gets a bus error and changes nothing; a read returns 0. The schedule of
turns and `resp` are the model's (assumption logs 3, 4). -/
def Obligations.IllegalAccessGetsABusError : Prop :=
  (∀ (s : State) (rest : List Turn) (addr : Nat),
    (∀ size, ¬(size = 4 ∧ addr % 4 = 0) →
      step { s with sched := .host (.read addr size) :: rest } =
        .next { s with sched := rest, resp := .readError 0 }) ∧
    (∀ lanes : List Byte, ¬(lanes.length = 4 ∧ addr % 4 = 0) →
      step { s with sched := .host (.write addr lanes) :: rest } =
        .next { s with sched := rest, resp := .writeError })) ∧
  (∀ (s : State) (off : BitVec 6) (v : Word), off.toNat % 4 ≠ 0 →
    exec (.regRead off) s = .next { s with resp := .readError 0 } ∧
    exec (.regWrite off v) s = .next { s with resp := .writeError })

/-- R57: CORE decodes only the six low address bits, so an access at the 64-byte aligned REG_BASE plus an offset is
the access at the offset. -/
def Obligations.AddressDecodesSixLowBits : Prop :=
  (∀ addr size : Nat, decode (.host (.read addr size)) = decode (.host (.read (addr % 64) size))) ∧
  (∀ (addr : Nat) (lanes : List Byte),
    decode (.host (.write addr lanes)) = decode (.host (.write (addr % 64) lanes))) ∧
  (∀ (c : Config) (off : BitVec 6) (v : Word), c.Legal → off.toNat % 4 = 0 →
    decode (.host (.read (c.regBase + off.toNat) 4)) = .ok (.regRead off) ∧
    decode (.host (.write (c.regBase + off.toNat) (lanesOfWord v))) = .ok (.regWrite off v))

/-- R175: IRQ is a function of CTRL and STATUS, with two sources. -/
def Obligations.InterruptIsALevelOfTwoSources : Prop :=
  ∀ s : State,
    (s.irq = true ↔ (s.ctrl.getLsbD 1 = true ∧ s.done = true) ∨ (s.ctrl.getLsbD 2 = true ∧ s.err = true)) ∧
    s.statusWord.getLsbD 14 = s.irq ∧
    ∀ c a : Bool, State.irq { s with cmdErr := c, aborted := a } = s.irq

/-! ### The stream ports -/

/-- R163: a push is accepted exactly while the port is ready; else it waits and CORE's state does not change. That a
waiting transfer passes its turn, and the answer `resp`, are the model's choice (assumption logs 4, 5). -/
def Obligations.InPushIsAcceptedWhenReady : Prop :=
  ∀ (s : State) (b : Byte),
    (s.busy = true → s.inFifo.length < s.cfg.inFifoDepth → s.inAccepted.toNat < s.latLen.toNat →
      exec (.inPush b) s = .next { s with
        inFifo := s.inFifo ++ [b], inAccepted := s.inAccepted + 1, resp := .done }) ∧
    (¬(s.busy = true ∧ s.inFifo.length < s.cfg.inFifoDepth ∧ s.inAccepted.toNat < s.latLen.toNat) →
      exec (.inPush b) s = .next { s with resp := .waits })

/-- R164: a pop takes the oldest byte, in or out of a command; from an empty FIFO it waits (`resp` and the turn that
passes are the model's choice, assumption logs 4, 5). -/
def Obligations.OutPopTakesTheOldestByte : Prop :=
  (∀ (s : State) (b : Byte) (rest : List Byte), s.outFifo = b :: rest →
    exec .outPop s = .next { s with outFifo := rest, resp := .byte b }) ∧
  (∀ s : State, s.outFifo = [] → exec .outPop s = .next { s with resp := .waits })

/-! ### The compress stages -/

/-- R36, R187: with BUSY = 0 the engine takes no step, and IDLE does nothing: a turn of the engine, in either of its
forms (assumption log 3), changes nothing but the schedule it is taken from. -/
def Obligations.IdleEngineTakesNoStep : Prop :=
  (∀ s : State, exec .idle s = .next s) ∧
  (∀ s u : State, s.EngineNext u → s.busy = false → step s = .next u)

/-- R133, R165: SPLIT pops until the block has st.bs bytes or the input is spent, holds on an empty IN FIFO, then goes
to BWT. -/
def Obligations.SplitTakesTheBlock : Prop :=
  (∀ (s : State) (b : Byte) (rest : List Byte),
    s.blk.length < s.latBs.toNat → s.inCount.toNat < s.latLen.toNat → s.inFifo = b :: rest →
    exec .split s = .next { s with blk := s.blk ++ [b], inFifo := rest, inCount := s.inCount + 1 }) ∧
  (∀ s : State,
    s.blk.length < s.latBs.toNat → s.inCount.toNat < s.latLen.toNat → s.inFifo = [] → exec .split s = .next s) ∧
  (∀ s : State,
    s.latBs.toNat ≤ s.blk.length ∨ s.latLen.toNat ≤ s.inCount.toNat → exec .split s = .next { s with stage := .bwt })

/-- R134 to R138: the transform stages of a compress, each one step. -/
def Obligations.CompressStagesTransformTheBlock : Prop :=
  (∀ s : State, s.mode = .explicitIndex →
    exec .bwt s = .next { s with
      colL := (bwtFwdExplicit s.blk).1, pidx := (bwtFwdExplicit s.blk).2, stage := .mtf }) ∧
  (∀ s : State, s.mode = .sentinel → s.blk.count 0 = 0 →
    exec .bwt s = .next { s with colL := lastColumn (s.blk ++ [0]), stage := .mtf }) ∧
  (∀ s : State, s.mode = .sentinel → 0 < s.blk.count 0 →
    exec .bwt s = .next (s.raise .sentinelCollision .bwt)) ∧
  (∀ s : State,
    exec .mtf s = .next { s with
      rankM := (mtfEnc s.colL).1, alpha := (mtfEnc s.colL).2, stage := .rle }) ∧
  (∀ s : State, exec .rle s = .next { s with pairR := rleEnc s.rankM, stage := .entropy }) ∧
  (∀ s : State,
    exec .entropy s = .next { s with
      codes := buildCodes s.pairR
      tab := (hufEnc s.pairR).1
      pay := (hufEnc s.pairR).2
      pend := (if s.mode = .explicitIndex then be32 s.pidx.toNat else [])
        ++ be32 (hufEnc s.pairR).1.length ++ (hufEnc s.pairR).1
        ++ be32 (hufEnc s.pairR).2.length ++ (hufEnc s.pairR).2
      stage := .framed })

/-- R139, R145: FRAMED and JOIN push one byte a step, hold while the OUT FIFO is full, and then commit the block. -/
def Obligations.FramedAndJoinPushThePendingBytes : Prop :=
  ∀ i ∈ [Instr.framed, Instr.join],
    (∀ (s : State) (b : Byte) (rest : List Byte), s.pend = b :: rest → s.outFifo.length < s.cfg.outFifoDepth →
      exec i s = .next { s with
        pend := rest, outFifo := s.outFifo ++ [b], outCount := s.outCount + 1 }) ∧
    (∀ s : State, s.pend ≠ [] → s.cfg.outFifoDepth ≤ s.outFifo.length → exec i s = .next s) ∧
    (∀ s : State, s.pend = [] →
      exec i s = .next { s with
        blockCount := s.blockCount + 1, outCommit := s.outCount, boundary := true })

/-- R132, R148: the block boundary step, in either form of the engine's turn. That it is due, and UNFRAME's marks, are
the model's fields (assumption logs 3, 8). -/
def Obligations.BoundaryStepEndsOrEntersABlock : Prop :=
  ∀ s u : State, s.EngineNext u → s.busy = true → s.boundary = true →
    (s.latLen.toNat ≤ s.inCount.toNat →
      step s = .next { u with busy := false, done := true, stage := .idle, boundary := false }) ∧
    (s.inCount.toNat < s.latLen.toNat → s.op = .compress →
      step s = .next { u with stage := .split, blk := [], boundary := false }) ∧
    (s.inCount.toNat < s.latLen.toNat → s.op = .decompress →
      step s = .next { u with
        stage := .unframe
        field := if s.mode = .explicitIndex then .idxCheck else .tabLenCheck
        need := 0, fbuf := [], boundary := false })

/-! ### The decompress stages -/

/-- R140: UNFRAME reads the fields of a frame in stream order: a byte a step, holding on an empty IN FIFO, and the
checks and moves between the fields when they pass. How these are cut into steps is the model's (assumption logs 8,
9). -/
def Obligations.UnframeReadsTheFrame : Prop :=
  (∀ (s : State) (b : Byte) (rest : List Byte), 0 < s.need → s.inFifo = b :: rest →
    (s.field = .idx ∨ s.field = .tabLen ∨ s.field = .payLen →
      exec .unframe s = .next { s with
        fbuf := s.fbuf ++ [b], need := s.need - 1, inFifo := rest, inCount := s.inCount + 1 }) ∧
    (s.field = .tab →
      exec .unframe s = .next { s with
        tab := s.tab ++ [b], need := s.need - 1, inFifo := rest, inCount := s.inCount + 1 }) ∧
    (s.field = .pay →
      exec .unframe s = .next { s with
        pay := s.pay ++ [b], need := s.need - 1, inFifo := rest, inCount := s.inCount + 1 })) ∧
  (∀ s : State, 0 < s.need → s.inFifo = [] →
    s.field = .idx ∨ s.field = .tabLen ∨ s.field = .payLen ∨ s.field = .tab ∨ s.field = .pay →
    exec .unframe s = .next s) ∧
  (∀ s : State, 4 ≤ s.latLen.toNat - s.inCount.toNat →
    (s.field = .idxCheck → exec .unframe s = .next { s with field := .idx, need := 4, fbuf := [] }) ∧
    (s.field = .tabLenCheck → exec .unframe s = .next { s with field := .tabLen, need := 4, fbuf := [] }) ∧
    (s.field = .payLenCheck → exec .unframe s = .next { s with field := .payLen, need := 4, fbuf := [] })) ∧
  (∀ s : State, s.need = 0 →
    (s.field = .idx →
      exec .unframe s = .next { s with pidx := BitVec.ofNat 32 (ofBE s.fbuf), field := .tabLenCheck }) ∧
    (s.field = .tabLen → ofBE s.fbuf ≤ s.latLen.toNat - s.inCount.toNat → ofBE s.fbuf ≤ 8706 →
      exec .unframe s = .next { s with field := .tab, need := ofBE s.fbuf, tab := [] }) ∧
    (s.field = .tab → exec .unframe s = .next { s with field := .payLenCheck }) ∧
    (s.field = .payLen → ofBE s.fbuf ≤ s.latLen.toNat - s.inCount.toNat → 1 ≤ ofBE s.fbuf →
      exec .unframe s = .next { s with field := .pay, need := ofBE s.fbuf, pay := [] }) ∧
    (s.field = .pay → exec .unframe s = .next { s with stage := .entropyInv }))

/-- R140, R170, R172: UNFRAME's checks, when they fail; the truncation check comes before the table bound. -/
def Obligations.UnframeRaisesOnABadLength : Prop :=
  (∀ s : State, s.latLen.toNat - s.inCount.toNat < 4 →
    s.field = .idxCheck ∨ s.field = .tabLenCheck ∨ s.field = .payLenCheck →
    exec .unframe s = .next { s with
      errInfo := 0x701, errBlock := s.blockCount, err := true, errored := true, stage := .drain }) ∧
  (∀ s : State, s.need = 0 → s.field = .tabLen → s.latLen.toNat - s.inCount.toNat < ofBE s.fbuf →
    exec .unframe s = .next { s with
      errInfo := 0x701, errBlock := s.blockCount, err := true, errored := true, stage := .drain }) ∧
  (∀ s : State, s.need = 0 → s.field = .tabLen → ofBE s.fbuf ≤ s.latLen.toNat - s.inCount.toNat →
    8706 < ofBE s.fbuf →
    exec .unframe s = .next { s with
      errInfo := 0x704, errBlock := s.blockCount, err := true, errored := true, stage := .drain }) ∧
  (∀ s : State, s.need = 0 → s.field = .payLen →
    s.latLen.toNat - s.inCount.toNat < ofBE s.fbuf ∨ ofBE s.fbuf = 0 →
    exec .unframe s = .next { s with
      errInfo := 0x701, errBlock := s.blockCount, err := true, errored := true, stage := .drain })

/-- R141 to R144: the stages of a decompress that invert the transforms, each one step: on buffers that pass every
check, and on those that fail one. -/
def Obligations.DecompressStagesInvertTheBlock : Prop :=
  (∀ (s : State) (codes : Codes), tabParse s.tab = .ok codes →
    (∀ R, hufDec codes (capR s.cfg s.mode) s.pay = .ok R →
      exec .entropyInv s = .next { s with codes := codes, pairR := R, stage := .rleInv }) ∧
    (∀ k, hufDec codes (capR s.cfg s.mode) s.pay = .error k →
      ∃ t, exec .entropyInv s = .next t ∧ t.forget = (s.raise k .entropyInv).forget)) ∧
  (∀ (s : State) (k : ErrKind), tabParse s.tab = .error k →
    exec .entropyInv s = .next (s.raise k .entropyInv)) ∧
  (∀ (s : State) (M : List Byte), rleDec (capL s.cfg s.mode) s.pairR = .ok M →
    exec .rleInv s = .next { s with rankM := M, stage := .mtfInv }) ∧
  (∀ (s : State) (k : ErrKind), rleDec (capL s.cfg s.mode) s.pairR = .error k →
    exec .rleInv s = .next (s.raise k .rleInv)) ∧
  (∀ s : State,
    exec .mtfInv s = .next { s with
      colL := (mtfDec s.rankM).1, alpha := (mtfDec s.rankM).2, stage := .bwtInv }) ∧
  (∀ (s : State) (B : List Byte),
    (s.mode = .explicitIndex ∧ bwtInvExplicit s.colL s.pidx.toNat = .ok B) ∨
      (s.mode = .sentinel ∧ bwtInvSentinel s.colL = .ok B) →
    exec .bwtInv s = .next { s with blk := B, pend := B, stage := .join }) ∧
  (∀ (s : State) (k : ErrKind),
    (s.mode = .explicitIndex ∧ bwtInvExplicit s.colL s.pidx.toNat = .error k) ∨
      (s.mode = .sentinel ∧ bwtInvSentinel s.colL = .error k) →
    exec .bwtInv s = .next (s.raise k .bwtInv))

/-- R147: DRAIN discards the rest of the input, holds on an empty IN FIFO, then ends the command. That the end is a step
of its own, with BUSY still 1 after the last pop, is the model's choice (assumption log 9). -/
def Obligations.DrainDiscardsTheRestOfTheInput : Prop :=
  (∀ (s : State) (b : Byte) (rest : List Byte), s.inCount.toNat < s.latLen.toNat → s.inFifo = b :: rest →
    exec .drain s = .next { s with inFifo := rest, inCount := s.inCount + 1 }) ∧
  (∀ s : State, s.inCount.toNat < s.latLen.toNat → s.inFifo = [] → exec .drain s = .next s) ∧
  (∀ s : State, s.latLen.toNat ≤ s.inCount.toNat →
    exec .drain s = .next { s with busy := false, stage := .idle })

/-! ### Error entry -/

/-- R170, R172: on which data a stage function fails, and that it and the stage that applies it then do exactly error
entry. The failing data are described by the formats, not by the functions: a table that no legal code map has, a payload
of `HufFails` (no byte at all: assumption log 11), an odd stream, a count of 0, a stream beyond the capacity, an index or
column BWT_INV refuses. Where ENTROPY_INV fails in HUF_DEC, the code map its TAB_PARSE made stays in `st.codes`
(assumption log 19). -/
def Obligations.AFailedStageEntersTheError : Prop :=
  ∀ s : State,
    (0 < s.blk.count 0 →
      exec .bwtFwdSentinel s = .next (s.errorEntry 0x205) ∧
      (s.mode = .sentinel → exec .bwt s = .next (s.errorEntry 0x205))) ∧
    ((¬∃ c, LegalCodes c ∧ s.tab = tabSer c) →
      exec .tabParse s = .next (s.errorEntry 0x804) ∧ exec .entropyInv s = .next (s.errorEntry 0x804)) ∧
    (∀ w, LegalCodes s.codes →
      HufFails s.codes (2 * (s.cfg.maxBlockSize + if s.mode = .sentinel then 1 else 0)) s.pay w →
      exec .hufDec s = .next (s.errorEntry w)) ∧
    (∀ c w, LegalCodes c → s.tab = tabSer c →
      HufFails c (2 * (s.cfg.maxBlockSize + if s.mode = .sentinel then 1 else 0)) s.pay w →
      exec .entropyInv s = .next { s.errorEntry w with codes := c }) ∧
    (s.pairR.length % 2 = 1 →
      exec .rleDec s = .next (s.errorEntry 0x901) ∧ exec .rleInv s = .next (s.errorEntry 0x901)) ∧
    (∀ ps, s.pairR = pairStream ps →
      (∃ p ∈ ps, p.1 = 0) ∨
        (s.cfg.maxBlockSize + if s.mode = .sentinel then 1 else 0) < (ps.map fun p => p.1.toNat).sum →
      exec .rleDec s = .next (s.errorEntry 0x902) ∧ exec .rleInv s = .next (s.errorEntry 0x902)) ∧
    (s.colL = [] ∨ s.colL.length ≤ s.pidx.toNat →
      exec .bwtInvExplicit s = .next (s.errorEntry 0xB02) ∧
      (s.mode = .explicitIndex → exec .bwtInv s = .next (s.errorEntry 0xB02))) ∧
    (s.colL.count 0 ≠ 1 ∨
        (∃ k, k + 1 < s.colL.length ∧ s.colL[(lf s.colL)^[k + 1] (s.colL.idxOf 0)]? = some 0) →
      exec .bwtInvSentinel s = .next (s.errorEntry 0xB02) ∧
      (s.mode = .sentinel → exec .bwtInv s = .next (s.errorEntry 0xB02))) ∧
    (∀ k, tabParse s.tab = .error k →
      exec .tabParse s = .next (s.errorEntry 0x804) ∧ exec .entropyInv s = exec .tabParse s) ∧
    (∀ k, hufDec s.codes (capR s.cfg s.mode) s.pay = .error k →
      exec .hufDec s = .next (s.errorEntry (BitVec.ofNat 32 (k.code ||| 8 <<< 8)))) ∧
    (∀ codes k, tabParse s.tab = .ok codes → hufDec codes (capR s.cfg s.mode) s.pay = .error k →
      exec .entropyInv s = .next { s.errorEntry (BitVec.ofNat 32 (k.code ||| 8 <<< 8)) with codes := codes }) ∧
    (∀ k, rleDec (capL s.cfg s.mode) s.pairR = .error k →
      exec .rleDec s = .next (s.errorEntry (BitVec.ofNat 32 (k.code ||| 9 <<< 8))) ∧
      exec .rleInv s = exec .rleDec s) ∧
    (∀ k, bwtInvExplicit s.colL s.pidx.toNat = .error k →
      exec .bwtInvExplicit s = .next (s.errorEntry 0xB02) ∧
      (s.mode = .explicitIndex → exec .bwtInv s = exec .bwtInvExplicit s)) ∧
    (∀ k, bwtInvSentinel s.colL = .error k →
      exec .bwtInvSentinel s = .next (s.errorEntry 0xB02) ∧
      (s.mode = .sentinel → exec .bwtInv s = exec .bwtInvSentinel s))

/-- R170: whatever instruction sets `st.errored`, it is a row of the table of data errors, and what it leaves is that
row's error entry. -/
def Obligations.OnlyTheTabledStagesRaise : Prop :=
  ∀ (i : Instr) (s t : State), exec i s = .next t → s.errored = false → t.errored = true →
    ∃ k S, (i, k, S) ∈ raiseTable ∧ t.errInfo = errWord k S ∧ t.errBlock = s.blockCount ∧ t.err = true ∧
      t.stage = .drain

/-- R173: at error entry the output holds exactly the blocks before the failing one. -/
def Obligations.ErrorEntryIsPreciseAtBlocks : Prop :=
  ∀ s t : State, s.Inv → step s = .next t → s.errored = false → t.errored = true →
    t.outFifo = s.outFifo ∧ t.outCommit = t.outCount ∧ t.outCount = s.outCount ∧ t.blockCount = s.blockCount ∧
      t.errBlock = s.blockCount ∧ t.busy = true ∧ t.stage = .drain

/-! ### The stage functions -/

/-- R98, R100, R110, R114, R124: the forward stage functions write their results and nothing else. -/
def Obligations.ForwardStageFunctionsWriteTheirResults : Prop :=
  (∀ s : State,
    exec .bwtFwdExplicit s = .next { s with
      colL := (bwtFwdExplicit s.blk).1, pidx := (bwtFwdExplicit s.blk).2 }) ∧
  (∀ s : State, s.blk.count 0 = 0 →
    exec .bwtFwdSentinel s = .next { s with colL := lastColumn (s.blk ++ [0]) }) ∧
  (∀ s : State,
    exec .mtfEnc s = .next { s with rankM := (mtfEnc s.colL).1, alpha := (mtfEnc s.colL).2 }) ∧
  (∀ s : State, exec .rleEnc s = .next { s with pairR := rleEnc s.rankM }) ∧
  (∀ s : State,
    exec .hufEnc s = .next { s with
      codes := buildCodes s.pairR
      tab := tabSer (buildCodes s.pairR)
      pay := pack s.pairR (buildCodes s.pairR) })

/-- R103, R104, R111, R115, R125, R126, R128: the inverse stage functions write their results and nothing else, on buffers
that pass their checks, whoever wrote them: the code map of a table, the symbols a payload's bits spell, the runs of a pair
stream, the bytes on the LF walk (R101). Every payload read with a legal code map decodes or fails as `HufFails` lists. -/
def Obligations.InverseStageFunctionsWriteTheirResults : Prop :=
  (∀ s : State, 1 ≤ s.colL.length → s.pidx.toNat < s.colL.length →
    exec .bwtInvExplicit s = .next { s with
      blk := (walkEmitMove s.colL s.colL.length s.pidx.toNat).reverse }) ∧
  (∀ s : State, s.colL.count 0 = 1 →
    (walkMoveEmit s.colL (s.colL.length - 1) (s.colL.idxOf 0)).count 0 = 0 →
    exec .bwtInvSentinel s = .next { s with
      blk := (walkMoveEmit s.colL (s.colL.length - 1) (s.colL.idxOf 0)).reverse }) ∧
  (∀ s : State,
    exec .mtfDec s = .next { s with colL := (mtfDec s.rankM).1, alpha := (mtfDec s.rankM).2 }) ∧
  (∀ (s : State) (M : List Byte), rleDec (capL s.cfg s.mode) s.pairR = .ok M →
    exec .rleDec s = .next { s with rankM := M }) ∧
  (∀ (s : State) (c : Codes), tabParse s.tab = .ok c → exec .tabParse s = .next { s with codes := c }) ∧
  (∀ (s : State) (R : List Byte), hufDec s.codes (capR s.cfg s.mode) s.pay = .ok R →
    exec .hufDec s = .next { s with pairR := R }) ∧
  (∀ (s : State) (c : Codes), LegalCodes c → s.tab = tabSer c → exec .tabParse s = .next { s with codes := c }) ∧
  (∀ (s : State) (R : List Byte), LegalCodes s.codes →
    HufDecodes s.codes (2 * (s.cfg.maxBlockSize + if s.mode = .sentinel then 1 else 0)) s.pay R →
    exec .hufDec s = .next { s with pairR := R }) ∧
  (∀ (c : Codes) (cap : Nat) (P : List Byte), LegalCodes c →
    (∃ R, HufDecodes c cap P R) ∨ ∃ w, HufFails c cap P w) ∧
  (∀ (s : State) (ps : List (Byte × Byte)), s.pairR = pairStream ps → (∀ p ∈ ps, p.1 ≠ 0) →
    (ps.map fun p => p.1.toNat).sum ≤ (s.cfg.maxBlockSize + if s.mode = .sentinel then 1 else 0) →
    exec .rleDec s = .next { s with rankM := ps.flatMap fun p => List.replicate p.1.toNat p.2 }) ∧
  (∀ (L : List Byte) (i : Nat) (x : Byte), L[i]? = some x →
    lf L i = (L.countP fun y => y.toNat < x.toNat) + (L.take i).count x) ∧
  (∀ s : State, s.pidx.toNat < s.colL.length → ∃ B : List Byte,
    exec .bwtInvExplicit s = .next { s with blk := B } ∧ B.length = s.colL.length ∧
    ∀ k, k < s.colL.length → B[s.colL.length - 1 - k]? = s.colL[(lf s.colL)^[k] s.pidx.toNat]?) ∧
  (∀ s : State, s.colL.count 0 = 1 →
    (∀ k, k + 1 < s.colL.length → s.colL[(lf s.colL)^[k + 1] (s.colL.idxOf 0)]? ≠ some 0) → ∃ B : List Byte,
    exec .bwtInvSentinel s = .next { s with blk := B } ∧ B.length + 1 = s.colL.length ∧
    ∀ k, k + 1 < s.colL.length →
      B[s.colL.length - 2 - k]? = s.colL[(lf s.colL)^[k + 1] (s.colL.idxOf 0)]?)

/-- R131, R134 to R137, R141 to R144: a transform stage is its stage function, then the sequencer's move, unless the
function raised. -/
def Obligations.StageRunsItsFunctionThenMoves : Prop :=
  ∀ s : State,
    (∀ p ∈ [(Instr.mtf, Instr.mtfEnc, Stage.mtf, Stage.rle), (.rle, .rleEnc, .rle, .entropy),
        (.rleInv, .rleDec, .rleInv, .mtfInv), (.mtfInv, .mtfDec, .mtfInv, .bwtInv),
        (.bwt, (if s.mode = .explicitIndex then .bwtFwdExplicit else .bwtFwdSentinel), .bwt, .mtf)],
      s.stage = p.2.2.1 → ∃ t, exec p.2.1 s = .next t ∧
        exec p.1 s = .next (if t.stage = .drain then t else { t with stage := p.2.2.2 })) ∧
    (∃ t, exec .hufEnc s = .next t ∧
      exec .entropy s = .next { t with pend := frameBytes t.mode t.pidx t.tab t.pay, stage := .framed }) ∧
    (s.stage = .bwtInv →
      ∃ t, exec (if s.mode = .explicitIndex then .bwtInvExplicit else .bwtInvSentinel) s = .next t ∧
        exec .bwtInv s = .next (if t.stage = .drain then t else { t with pend := t.blk, stage := .join })) ∧
    (s.stage = .entropyInv →
      ∃ t, exec .tabParse s = .next t ∧
        (t.stage = .drain → exec .entropyInv s = .next t) ∧
        (t.stage ≠ .drain → ∃ u, exec .hufDec t = .next u ∧
          exec .entropyInv s = .next (if u.stage = .drain then u else { u with stage := .rleInv })))

/-- R21, R45: a stage function that does not raise changes no register, no flag, no FIFO and no stage. -/
def Obligations.StageFunctionsTouchOnlyBuffers : Prop :=
  ∀ i ∈ [Instr.bwtFwdExplicit, .bwtFwdSentinel, .bwtInvExplicit, .bwtInvSentinel, .mtfEnc, .mtfDec, .rleEnc, .rleDec,
      .hufEnc, .hufDec, .tabParse],
    ∀ s t : State, exec i s = .next t → s.errored = false → t.errored = false →
      t.forget = s.forget ∧ ∀ off, t.readReg off = s.readReg off

/-! ### The transforms -/

/-- R18, R96: `<lex` compares the first bytes that differ, unsigned; a rotation by s starts at the byte s; the rotation
index is the permutation of the start indices that the keys `(rot(t, s), s)` sort. -/
def Obligations.RotationIndexIsSorted : Prop :=
  (∀ a b : List Byte, a.length = b.length →
    (lexLt a b = true ↔
      ∃ (i : Nat) (x y : Byte),
        a.take i = b.take i ∧ a[i]? = some x ∧ b[i]? = some y ∧ x.toNat < y.toNat)) ∧
  ∀ t : List Byte,
    (∀ s, rot t s = t.drop s ++ t.take s) ∧
    (rotationOrder t).Perm (List.range t.length) ∧
    (rotationOrder t).Pairwise fun a b =>
      (rot t a = rot t b ∧ a < b) ∨ (rot t a ≠ rot t b ∧ lexLt (rot t a) (rot t b) = true)

/-- R98, R99, R100: row i of the column is the byte before start index `order[i]`, in both modes; the index the explicit
transform returns is the primary index, a row of the block and the row of the unrotated block. -/
def Obligations.PrimaryIndexIsTheUnrotatedRow : Prop :=
  (∀ B : List Byte, B ≠ [] →
    primaryIndex B < B.length ∧ (rotationOrder B)[primaryIndex B]? = some 0 ∧
    (B.length < 2 ^ 32 → (bwtFwdExplicit B).2.toNat = primaryIndex B) ∧
    (bwtFwdExplicit B).1.length = B.length ∧
    ∀ i o : Nat, (rotationOrder B)[i]? = some o →
      (bwtFwdExplicit B).1[i]? = B[(o + B.length - 1) % B.length]?) ∧
  (∀ B L : List Byte, bwtFwdSentinel B = .ok L →
    L.length = B.length + 1 ∧
    ∀ i o : Nat, (rotationOrder (B ++ [0]))[i]? = some o →
      L[i]? = (B ++ [0])[(o + (B.length + 1) - 1) % (B.length + 1)]?)

/-- R88, R100: the SENTINEL column is one byte longer than its block, holds 0x00 exactly once, and starts with the
block's last byte. -/
def Obligations.SentinelColumnHasOneSentinel : Prop :=
  ∀ (B L : List Byte), bwtFwdSentinel B = .ok L →
    L.length = B.length + 1 ∧ L.count 0 = 1 ∧ (B ≠ [] → L.head? = B.getLast?)

/-- R106: the explicit-index transform is inverted, periodic blocks among them. -/
def Obligations.ExplicitBwtRoundTrips : Prop :=
  ∀ B : List Byte, B ≠ [] → B.length ≤ 2 ^ 24 →
    bwtInvExplicit (bwtFwdExplicit B).1 (bwtFwdExplicit B).2.toNat = .ok B

/-- R106: the sentinel transform is inverted on every block without 0x00. -/
def Obligations.SentinelBwtRoundTrips : Prop :=
  ∀ B : List Byte, B.count 0 = 0 → ∃ L, bwtFwdSentinel B = .ok L ∧ bwtInvSentinel L = .ok B

/-- R108 to R112: both functions start from the identity alphabet; encoding emits the place of the byte in the alphabet,
decoding the byte at the place, and both then move that byte to the front; decoding inverts encoding and leaves the same
alphabet. -/
def Obligations.MtfRoundTripsInSynchrony : Prop :=
  (mtfEnc [] = ([], (List.range 256).map (BitVec.ofNat 8)) ∧ mtfDec [] = ([], (List.range 256).map (BitVec.ofNat 8))) ∧
  (∀ (X : List Byte) (x : Byte),
    (∃ i : Nat, i < 256 ∧ (mtfEnc X).2[i]? = some x) ∧
    ∀ i : Nat, (mtfEnc X).2[i]? = some x →
      mtfEnc (X ++ [x]) = ((mtfEnc X).1 ++ [BitVec.ofNat 8 i], x :: (mtfEnc X).2.eraseIdx i)) ∧
  (∀ (Y : List Byte) (i : Byte), ∃ b : Byte,
    (mtfDec Y).2[i.toNat]? = some b ∧
    mtfDec (Y ++ [i]) = ((mtfDec Y).1 ++ [b], b :: (mtfDec Y).2.eraseIdx i.toNat)) ∧
  ∀ X : List Byte, mtfDec (mtfEnc X).1 = (X, (mtfEnc X).2)

/-- R116: RLE decoding inverts encoding within the column capacity, and a run of 300 is the pairs 255 and 45. -/
def Obligations.RleRoundTrips : Prop :=
  (∀ (cap : Nat) (X : List Byte), X.length ≤ cap → rleDec cap (rleEnc X) = .ok X) ∧
  (∀ v : Byte, rleEnc (List.replicate 300 v) = [255, v, 45, v])

/-- R86, R114, R117: an RLE stream is a sequence of pairs with counts 1 to 255, at most twice as long as its input, and
not empty where the input is not; the pairs are of maximal runs: two adjacent pairs have one value only where a run was
split at 255. -/
def Obligations.RleStreamIsBounded : Prop :=
  ∀ X : List Byte,
    (rleEnc X).length % 2 = 0 ∧ (rleEnc X).length ≤ 2 * X.length ∧ (X ≠ [] → 2 ≤ (rleEnc X).length) ∧
    (∀ k c, (rleEnc X)[2 * k]? = some c → c ≠ 0) ∧
    ∀ k c v c', (rleEnc X)[2 * k]? = some c → (rleEnc X)[2 * k + 1]? = some v →
      (rleEnc X)[2 * k + 2]? = some c' → (rleEnc X)[2 * k + 3]? = some v → c = 255

/-- R118 to R121: the symbols of the input in ascending order are merged by weight and then insertion order into one
tree, whose paths are the codes. The codes are prefix-free, of 1 to 255 bits (at most k − 1 for k ≥ 2 symbols), for
exactly the symbols of the input, and complete where there are two symbols or more. -/
def Obligations.HuffmanCodesArePrefixFree : Prop :=
  ∀ X : List Byte,
    (∀ s, s ∈ symbols X ↔ 0 < X.count s) ∧ (symbols X).Pairwise (fun a b => a.toNat < b.toNat) ∧
    (∀ s, symbols X = [s] → buildCodes X = [(s, [false])]) ∧
    (2 ≤ (symbols X).length →
      ∃ t : Tree,
        MergesTo (symbols X).length ((symbols X).zipIdx.map fun p => ⟨X.count p.1, p.2, .leaf p.1⟩) t ∧
        ∀ s w, (s, w) ∈ buildCodes X ↔ t.leafAt w = some s) ∧
    (buildCodes X).map Prod.fst = symbols X ∧
    prefixFree (buildCodes X) = true ∧
    (∀ e ∈ buildCodes X, 1 ≤ e.2.length ∧ e.2.length ≤ 255 ∧ e.2.length ≤ max 1 ((symbols X).length - 1)) ∧
    (2 ≤ (symbols X).length →
      ∀ w : Bits, ∃ e ∈ buildCodes X, w.isPrefixOf e.2 = true ∨ e.2.isPrefixOf w = true)

/-- R60, R122, R123, R127: bit k of a bit string stands in bit 7 − (k mod 8) of byte k/8; the table is the count and the
entries, the payload the pad length and the packed codes of the input; the table parses to the code map, which is
prefix-free, and the payload decodes to the input. -/
def Obligations.HuffmanRoundTrips : Prop :=
  (∀ w : Bits, (packBits w).length = (w.length + 7) / 8 ∧
    ∀ k, k < 8 * (packBits w).length → ∃ b : Byte,
      (packBits w)[k / 8]? = some b ∧ b.getLsbD (7 - k % 8) = w.getD k false) ∧
  (∀ (s : List Byte), (unpackBits s).length = 8 * s.length ∧
    ∀ (k : Nat) (b : Byte), s[k / 8]? = some b → (unpackBits s)[k]? = some (b.getLsbD (7 - k % 8))) ∧
  (∀ c : Codes, tabSer c =
    be16 c.length ++ c.flatMap fun e => [e.1, BitVec.ofNat 8 e.2.length] ++ packBits e.2) ∧
  (∀ X : List Byte, (hufEnc X).1 = tabSer (buildCodes X) ∧ ∃ w, Spells (buildCodes X) X w ∧
    (hufEnc X).2 = BitVec.ofNat 8 ((8 - w.length % 8) % 8) :: packBits w) ∧
  ∀ (cap : Nat) (X : List Byte), X.length ≤ cap →
    tabParse (hufEnc X).1 = .ok (buildCodes X) ∧ prefixFree (buildCodes X) = true ∧
    hufDec (buildCodes X) cap (hufEnc X).2 = .ok X

/-- R19, R58, R59, R82, R83, R89: numbers are written and read most significant byte first; a frame is its fields in
order, and they are read back from the front of a stream. -/
def Obligations.FrameFieldsReadBack : Prop :=
  (∀ v : Word, be32 v.toNat =
    [v.extractLsb' 24 8, v.extractLsb' 16 8, v.extractLsb' 8 8, v.extractLsb' 0 8]) ∧
  (∀ v : BitVec 16, be16 v.toNat = [v.extractLsb' 8 8, v.extractLsb' 0 8]) ∧
  (∀ a b c d : Byte,
    ofBE [a, b, c, d] = a.toNat * 2 ^ 24 + b.toNat * 2 ^ 16 + c.toNat * 2 ^ 8 + d.toNat ∧
    ofBE [a, b] = a.toNat * 2 ^ 8 + b.toNat) ∧
  (∀ (p : Word) (tab pay : List Byte),
    frameBytes .sentinel p tab pay = be32 tab.length ++ tab ++ be32 pay.length ++ pay ∧
    frameBytes .explicitIndex p tab pay = be32 p.toNat ++ be32 tab.length ++ tab ++ be32 pay.length ++ pay) ∧
  ∀ (m : Mode) (p : Word) (tab pay rest : List Byte),
    tab.length ≤ 8706 → 1 ≤ pay.length → pay.length < 2 ^ 32 →
    readFrame m (frameBytes m p tab pay ++ rest) =
      .ok (⟨if m = .explicitIndex then p.toNat else 0, tab, pay⟩, rest)

/-- R153: COMPRESS then DECOMPRESS gives the input back, for every input and block size, in EXPLICIT_INDEX mode. -/
def Obligations.ExplicitPipelineRoundTrips : Prop :=
  ∀ (c : Config) (bs : Nat) (D : List Byte), c.Legal → 1 ≤ bs → bs ≤ c.maxBlockSize →
    (compressStream .explicitIndex bs D).err = none ∧
    decompressStream c .explicitIndex (compressStream .explicitIndex bs D).output =
      ⟨D, (compressStream .explicitIndex bs D).blocks, none⟩

/-- R153: in SENTINEL mode the same for inputs without 0x00; with a 0x00 COMPRESS ends with SENTINEL_COLLISION at the
first block that holds one. -/
def Obligations.SentinelPipelineRoundTripsOrCollides : Prop :=
  ∀ (c : Config) (bs : Nat) (D : List Byte), c.Legal → 1 ≤ bs → bs ≤ c.maxBlockSize →
    (D.count 0 = 0 →
      (compressStream .sentinel bs D).err = none ∧
      decompressStream c .sentinel (compressStream .sentinel bs D).output =
        ⟨D, (compressStream .sentinel bs D).blocks, none⟩) ∧
    (0 < D.count 0 →
      (compressStream .sentinel bs D).err = some (.sentinelCollision, .bwt) ∧
      (compressStream .sentinel bs D).blocks = D.idxOf 0 / bs)

/-- R153: a compressed stream less its last byte ends with TRUNCATED_INPUT in UNFRAME at the last frame. -/
def Obligations.TruncatedStreamIsDetected : Prop :=
  ∀ (c : Config) (m : Mode) (bs : Nat) (D : List Byte), c.Legal → 1 ≤ bs → bs ≤ c.maxBlockSize → D ≠ [] →
    (compressStream m bs D).err = none →
    (decompressStream c m (compressStream m bs D).output.dropLast).err = some (.truncatedInput, .unframe) ∧
    (decompressStream c m (compressStream m bs D).output.dropLast).blocks + 1 = (compressStream m bs D).blocks

/-! ### Whole commands -/

/-- R150, for a host that has done all it does before the engine runs (interleaved hosts, R168, are not in it): a COMPRESS
whose input is in the IN FIFO and whose output fits runs to its end without the host and leaves
what `compressStream` computes. -/
def Obligations.CompressRunComputesTheStream : Prop :=
  ∀ (s : State) (D : List Byte), s.Inv → s.busy = false → D.length = s.inLen.toNat →
    D.length ≤ s.cfg.inFifoDepth →
    s.outFifo.length + (compressStream s.bwtMode s.blockSize.toNat D).output.length ≤ s.cfg.outFifoDepth →
    ∃ n t, Host.Core.run core n (s.loaded .compress D) = .next t ∧
      State.Ended t (compressStream s.bwtMode s.blockSize.toNat D) D.length s.outFifo

/-- R151: the same for DECOMPRESS and `decompressStream`, interleaved hosts left out likewise. -/
def Obligations.DecompressRunComputesTheStream : Prop :=
  ∀ (s : State) (D : List Byte), s.Inv → s.busy = false → D.length = s.inLen.toNat →
    D.length ≤ s.cfg.inFifoDepth →
    s.outFifo.length + (decompressStream s.cfg s.bwtMode D).output.length ≤ s.cfg.outFifoDepth →
    ∃ n t, Host.Core.run core n (s.loaded .decompress D) = .next t ∧
      State.Ended t (decompressStream s.cfg s.bwtMode D) D.length s.outFifo

/-! ### Decoding and the step -/

/-- R77, R36, R79: words written out from the tables decode to their instructions, the fourteen stage codes and the
stage-function codes among them, and the stages show those codes. -/
def Obligations.WrittenWordsDecode : Prop :=
  decode (.host (.command 0x00000001)) = .ok .compress ∧
  decode (.host (.command 0x00000101)) = .ok (.reservedCmd 0x101) ∧
  decode (.host (.write 0x10 [0x02, 0x00, 0x00, 0x00])) = .ok (.regWrite 0x10 0x00000002) ∧
  (∀ p ∈ [(0, Instr.idle, Stage.idle), (1, .split, .split), (2, .bwt, .bwt), (3, .mtf, .mtf), (4, .rle, .rle),
      (5, .entropy, .entropy), (6, .framed, .framed), (7, .unframe, .unframe), (8, .entropyInv, .entropyInv),
      (9, .rleInv, .rleInv), (10, .mtfInv, .mtfInv), (11, .bwtInv, .bwtInv), (12, .join, .join), (13, .drain, .drain)],
    decode (.stage p.1) = .ok p.2.1 ∧ p.2.2.code = p.1) ∧
  (∀ p ∈ [(0x02, Instr.bwtFwdExplicit), (0x12, .bwtFwdSentinel), (0x0B, .bwtInvExplicit), (0x1B, .bwtInvSentinel),
      (0x03, .mtfEnc), (0x13, .mtfEnc), (0x0A, .mtfDec), (0x04, .rleEnc), (0x09, .rleDec), (0x05, .hufEnc),
      (0x08, .tabParse)],
    decode (.stageOp p.1 false) = .ok p.2) ∧
  decode (.stageOp 0x08 true) = .ok .hufDec ∧
  decode (.stage 0b1110) = .error .reservedStage ∧ decode (.stage 0b1111) = .error .reservedStage

/-- Every well-formed instruction is read back from its code word, with every operand. The code word is the model's: it
names the format, and `second` tells HUF_DEC from TAB_PARSE, whose table bits are the same (assumption log 14). -/
def Obligations.DecodeInvertsEncode : Prop :=
  ∀ i : Instr, wellFormed i = true → decode (encode i) = .ok i

/-- Every code word the decoder accepts is, up to the bits CORE does not decode, the word of one well-formed
instruction: no encoding falls through to a neighbour. This is of the model's code words, which name the format and hold
`second`: the table's bits alone have rows in common, 0x08 being TAB_PARSE's and HUF_DEC's by R79 (assumption log 14). -/
def Obligations.AcceptedWordsHaveOneInstruction : Prop :=
  ∀ (c : Code) (i : Instr), decode c = .ok i → wellFormed i = true ∧ encode i = c.canonical

/-- A step runs the decoded instruction: in a turn of the host the action's, in a turn of the engine that of the
stage code, with the turn taken off the schedule (assumption log 3). -/
def Obligations.AStepRunsTheDecodedInstruction : Prop :=
  (∀ (s : State) (h : HostOp) (rest : List Turn) (i : Instr), decode (.host h) = .ok i →
    step { s with sched := .host h :: rest } = exec i { s with sched := rest }) ∧
  (∀ (s : State) (rest : List Turn) (i : Instr), s.busy = true → s.boundary = false →
    decode (.stage s.stage.code) = .ok i →
    step { s with sched := .engine :: rest } = exec i { s with sched := rest } ∧
    step { s with sched := [] } = exec i { s with sched := [] })

/-! ### Invariants and rules of the whole machine -/

/-- The reset state of a legal configuration meets the invariants. -/
def Obligations.ResetMeetsTheInvariant : Prop :=
  ∀ c : Config, c.Legal →
    (State.resetOf c).Inv ∧ (State.resetOf c).BuffersFit ∧ LegalCodes (State.resetOf c).codes

/-- Every step keeps the invariant, from every state that meets it and whatever the host does next. -/
def Obligations.EveryStepKeepsTheInvariant : Prop :=
  ∀ s t : State, s.Inv → step s = .next t → t.Inv

/-- Every step keeps the buffers of the running stage within their capacities, and the code table a legal code map. -/
def Obligations.EveryStepKeepsTheBuffersFit : Prop :=
  (∀ s t : State, s.Inv → s.BuffersFit → step s = .next t → t.BuffersFit) ∧
  ∀ s t : State, LegalCodes s.codes → step s = .next t → LegalCodes t.codes

/-- No step stops the machine, and none changes the parameters. That a wait and a hold are steps too, with a next state, is
the model's reading (assumption logs 5, 6, 21). -/
def Obligations.EveryStepAnswersANextState : Prop :=
  ∀ s : State, ∃ t, step s = .next t ∧ t.cfg = s.cfg

/-- R149: what is left in a working buffer is never seen: two states that differ in dead buffers only step to states
that differ in dead buffers only, with the same registers, IRQ and answer to the host. -/
def Obligations.DeadBuffersAreUnobservable : Prop :=
  ∀ s t : State, s.live = t.live →
    ∃ s' t', step s = .next s' ∧ step t = .next t' ∧ s'.live = t'.live ∧
      s'.resp = t'.resp ∧ s'.irq = t'.irq ∧ ∀ off, s'.readReg off = t'.readReg off

/-- R191: a write to CTRL, BLOCK_SIZE or IN_LEN does not reach the engine's steps, in either form of the engine's turn
(assumption log 3). -/
def Obligations.HostConfigurationDoesNotReachTheRunningCommand : Prop :=
  ∀ (s u t : State) (c b n : Word), s.EngineNext u → step s = .next t →
    step { s with ctrl := c, blockSize := b, inLen := n } = .next { t with ctrl := c, blockSize := b, inLen := n }

/-- R45, R189: CMD_ERR is set only by a refused command, and cleared only by W1C or reset. -/
def Obligations.CmdErrHasItsSettersAndClearers : Prop :=
  ∀ (i : Instr) (s t : State), exec i s = .next t →
    (s.cmdErr = true → t.cmdErr = false →
      i = .reset ∨ ∃ v, i = .regWrite 0x14 v ∧ v.getLsbD 3 = true) ∧
    (s.cmdErr = false → t.cmdErr = true →
      (∃ v, i = .reservedCmd v) ∨ (s.busy = true ∧ (i = .compress ∨ i = .decompress)) ∨
      ∃ v, i = .regWrite 0x10 v ∧ (4 ≤ v.toNat ∨ (s.busy = true ∧ (v.toNat = 1 ∨ v.toNat = 2))))

/-- R174: ERR is set only with error entry, and cleared only by W1C, command start or reset. -/
def Obligations.ErrIsNeverSilentlyCleared : Prop :=
  ∀ (i : Instr) (s t : State), exec i s = .next t →
    (s.err = true → t.err = false →
      i = .reset ∨ (∃ v, i = .regWrite 0x14 v ∧ v.getLsbD 2 = true) ∨
      (s.busy = false ∧ (i = .compress ∨ i = .decompress ∨
        ∃ v, i = .regWrite 0x10 v ∧ (v.toNat = 1 ∨ v.toNat = 2)))) ∧
    (s.err = false → t.err = true → t.errored = true ∧ t.stage = .drain ∧ ∃ k S, (i, k, S) ∈ raiseTable) ∧
    (s.errored = false → t.errored = true → t.err = true)

/-- R69, R188: no byte is reordered, dropped or duplicated: the FIFOs change only at their ends, except the flush of
ABORT and of reset. A popped byte is the answer, `resp`, the model's field (assumption log 4). -/
def Obligations.FifosKeepTheirOrder : Prop :=
  ∀ (i : Instr) (s t : State), exec i s = .next t →
    (t.outFifo = s.outFifo ∨ (∃ b, t.outFifo = s.outFifo ++ [b] ∧ (i = .framed ∨ i = .join)) ∨
      (∃ b, s.outFifo = b :: t.outFifo ∧ i = .outPop ∧ t.resp = .byte b) ∨ (i = .reset ∧ t.outFifo = [])) ∧
    (t.inFifo = s.inFifo ∨ (∃ b, t.inFifo = s.inFifo ++ [b] ∧ i = .inPush b) ∨
      (∃ b, s.inFifo = b :: t.inFifo ∧ (i = .split ∨ i = .unframe ∨ i = .drain)) ∨
      (t.inFifo = [] ∧ (i = .abort ∨ i = .reset ∨ ∃ v, i = .regWrite 0x10 v ∧ v.toNat = 3)))

/-- R39 to R42, R49, R72: while a command goes on its latched configuration stays, IN_COUNT, OUT_COUNT and BLOCK_COUNT go
up by at most one a step, and OUT_COMMIT stays or takes the value of OUT_COUNT. -/
def Obligations.CountersGrowWithinACommand : Prop :=
  ∀ s t : State, s.Inv → step s = .next t → s.busy = true → t.busy = true →
    t.op = s.op ∧ t.mode = s.mode ∧ t.latBs = s.latBs ∧ t.latLen = s.latLen ∧
    (t.inCount.toNat = s.inCount.toNat ∨ t.inCount.toNat = s.inCount.toNat + 1) ∧
    (t.outCount = s.outCount ∨ t.outCount = s.outCount + 1) ∧
    (t.blockCount = s.blockCount ∨ t.blockCount = s.blockCount + 1) ∧
    (t.outCommit = s.outCommit ∨ t.outCommit = t.outCount)

/-- R46, R71, R148: how a command ends. By the engine: with DONE and every count complete, or after an error with its
whole input consumed. By the host: with ABORTED, or by reset. -/
def Obligations.ACommandEndsInOneWay : Prop :=
  ∀ s t : State, s.Inv → step s = .next t → s.busy = true → t.busy = false →
    (t.done = true ∧ t.err = false ∧ t.errored = false ∧ t.inCount = t.latLen ∧ t.outCommit = t.outCount ∧
      t.outFifo = s.outFifo) ∨
    (t.done = false ∧ t.errored = true ∧ t.err = s.err ∧ t.inCount = t.latLen ∧ t.outCommit = t.outCount ∧
      t.outFifo = s.outFifo) ∨
    (t.aborted = true ∧ t.done = false ∧ t.err = s.err ∧ t.inFifo = [] ∧ t.outFifo = s.outFifo) ∨
    State.HasResetValues s.cfg t
end

