-- ==== Sys2Proof/Laws/State.lean ====
section
/-! SUPPORT. Every field after every named update of the state, one lemma each, so that no proof unfolds an update. -/

namespace Sys2Proof.Machine

/-! ### setStage -/

@[simp] theorem State.setStage_cfg (s : State) (S : Stage) : (s.setStage S).cfg = s.cfg := rfl
@[simp] theorem State.setStage_ctrl (s : State) (S : Stage) : (s.setStage S).ctrl = s.ctrl := rfl
@[simp] theorem State.setStage_blockSize (s : State) (S : Stage) : (s.setStage S).blockSize = s.blockSize := rfl
@[simp] theorem State.setStage_inLen (s : State) (S : Stage) : (s.setStage S).inLen = s.inLen := rfl
@[simp] theorem State.setStage_busy (s : State) (S : Stage) : (s.setStage S).busy = s.busy := rfl
@[simp] theorem State.setStage_done (s : State) (S : Stage) : (s.setStage S).done = s.done := rfl
@[simp] theorem State.setStage_err (s : State) (S : Stage) : (s.setStage S).err = s.err := rfl
@[simp] theorem State.setStage_cmdErr (s : State) (S : Stage) : (s.setStage S).cmdErr = s.cmdErr := rfl
@[simp] theorem State.setStage_aborted (s : State) (S : Stage) : (s.setStage S).aborted = s.aborted := rfl
@[simp] theorem State.setStage_errInfo (s : State) (S : Stage) : (s.setStage S).errInfo = s.errInfo := rfl
@[simp] theorem State.setStage_errBlock (s : State) (S : Stage) : (s.setStage S).errBlock = s.errBlock := rfl
@[simp] theorem State.setStage_blockCount (s : State) (S : Stage) : (s.setStage S).blockCount = s.blockCount := rfl
@[simp] theorem State.setStage_inCount (s : State) (S : Stage) : (s.setStage S).inCount = s.inCount := rfl
@[simp] theorem State.setStage_outCount (s : State) (S : Stage) : (s.setStage S).outCount = s.outCount := rfl
@[simp] theorem State.setStage_outCommit (s : State) (S : Stage) : (s.setStage S).outCommit = s.outCommit := rfl
@[simp] theorem State.setStage_inFifo (s : State) (S : Stage) : (s.setStage S).inFifo = s.inFifo := rfl
@[simp] theorem State.setStage_inAccepted (s : State) (S : Stage) : (s.setStage S).inAccepted = s.inAccepted := rfl
@[simp] theorem State.setStage_outFifo (s : State) (S : Stage) : (s.setStage S).outFifo = s.outFifo := rfl
@[simp] theorem State.setStage_op (s : State) (S : Stage) : (s.setStage S).op = s.op := rfl
@[simp] theorem State.setStage_mode (s : State) (S : Stage) : (s.setStage S).mode = s.mode := rfl
@[simp] theorem State.setStage_latBs (s : State) (S : Stage) : (s.setStage S).latBs = s.latBs := rfl
@[simp] theorem State.setStage_latLen (s : State) (S : Stage) : (s.setStage S).latLen = s.latLen := rfl
@[simp] theorem State.setStage_blk (s : State) (S : Stage) : (s.setStage S).blk = s.blk := rfl
@[simp] theorem State.setStage_colL (s : State) (S : Stage) : (s.setStage S).colL = s.colL := rfl
@[simp] theorem State.setStage_pidx (s : State) (S : Stage) : (s.setStage S).pidx = s.pidx := rfl
@[simp] theorem State.setStage_rankM (s : State) (S : Stage) : (s.setStage S).rankM = s.rankM := rfl
@[simp] theorem State.setStage_pairR (s : State) (S : Stage) : (s.setStage S).pairR = s.pairR := rfl
@[simp] theorem State.setStage_codes (s : State) (S : Stage) : (s.setStage S).codes = s.codes := rfl
@[simp] theorem State.setStage_tab (s : State) (S : Stage) : (s.setStage S).tab = s.tab := rfl
@[simp] theorem State.setStage_pay (s : State) (S : Stage) : (s.setStage S).pay = s.pay := rfl
@[simp] theorem State.setStage_pend (s : State) (S : Stage) : (s.setStage S).pend = s.pend := rfl
@[simp] theorem State.setStage_need (s : State) (S : Stage) : (s.setStage S).need = s.need := rfl
@[simp] theorem State.setStage_alpha (s : State) (S : Stage) : (s.setStage S).alpha = s.alpha := rfl
@[simp] theorem State.setStage_stage (s : State) (S : Stage) : (s.setStage S).stage = S := rfl
@[simp] theorem State.setStage_errored (s : State) (S : Stage) : (s.setStage S).errored = s.errored := rfl
@[simp] theorem State.setStage_field (s : State) (S : Stage) : (s.setStage S).field = s.field := rfl
@[simp] theorem State.setStage_fbuf (s : State) (S : Stage) : (s.setStage S).fbuf = s.fbuf := rfl
@[simp] theorem State.setStage_boundary (s : State) (S : Stage) : (s.setStage S).boundary = s.boundary := rfl
@[simp] theorem State.setStage_resp (s : State) (S : Stage) : (s.setStage S).resp = s.resp := rfl
@[simp] theorem State.setStage_sched (s : State) (S : Stage) : (s.setStage S).sched = s.sched := rfl

/-! ### setResp -/

@[simp] theorem State.setResp_cfg (s : State) (r : Response) : (s.setResp r).cfg = s.cfg := rfl
@[simp] theorem State.setResp_ctrl (s : State) (r : Response) : (s.setResp r).ctrl = s.ctrl := rfl
@[simp] theorem State.setResp_blockSize (s : State) (r : Response) : (s.setResp r).blockSize = s.blockSize := rfl
@[simp] theorem State.setResp_inLen (s : State) (r : Response) : (s.setResp r).inLen = s.inLen := rfl
@[simp] theorem State.setResp_busy (s : State) (r : Response) : (s.setResp r).busy = s.busy := rfl
@[simp] theorem State.setResp_done (s : State) (r : Response) : (s.setResp r).done = s.done := rfl
@[simp] theorem State.setResp_err (s : State) (r : Response) : (s.setResp r).err = s.err := rfl
@[simp] theorem State.setResp_cmdErr (s : State) (r : Response) : (s.setResp r).cmdErr = s.cmdErr := rfl
@[simp] theorem State.setResp_aborted (s : State) (r : Response) : (s.setResp r).aborted = s.aborted := rfl
@[simp] theorem State.setResp_errInfo (s : State) (r : Response) : (s.setResp r).errInfo = s.errInfo := rfl
@[simp] theorem State.setResp_errBlock (s : State) (r : Response) : (s.setResp r).errBlock = s.errBlock := rfl
@[simp] theorem State.setResp_blockCount (s : State) (r : Response) : (s.setResp r).blockCount = s.blockCount := rfl
@[simp] theorem State.setResp_inCount (s : State) (r : Response) : (s.setResp r).inCount = s.inCount := rfl
@[simp] theorem State.setResp_outCount (s : State) (r : Response) : (s.setResp r).outCount = s.outCount := rfl
@[simp] theorem State.setResp_outCommit (s : State) (r : Response) : (s.setResp r).outCommit = s.outCommit := rfl
@[simp] theorem State.setResp_inFifo (s : State) (r : Response) : (s.setResp r).inFifo = s.inFifo := rfl
@[simp] theorem State.setResp_inAccepted (s : State) (r : Response) : (s.setResp r).inAccepted = s.inAccepted := rfl
@[simp] theorem State.setResp_outFifo (s : State) (r : Response) : (s.setResp r).outFifo = s.outFifo := rfl
@[simp] theorem State.setResp_op (s : State) (r : Response) : (s.setResp r).op = s.op := rfl
@[simp] theorem State.setResp_mode (s : State) (r : Response) : (s.setResp r).mode = s.mode := rfl
@[simp] theorem State.setResp_latBs (s : State) (r : Response) : (s.setResp r).latBs = s.latBs := rfl
@[simp] theorem State.setResp_latLen (s : State) (r : Response) : (s.setResp r).latLen = s.latLen := rfl
@[simp] theorem State.setResp_blk (s : State) (r : Response) : (s.setResp r).blk = s.blk := rfl
@[simp] theorem State.setResp_colL (s : State) (r : Response) : (s.setResp r).colL = s.colL := rfl
@[simp] theorem State.setResp_pidx (s : State) (r : Response) : (s.setResp r).pidx = s.pidx := rfl
@[simp] theorem State.setResp_rankM (s : State) (r : Response) : (s.setResp r).rankM = s.rankM := rfl
@[simp] theorem State.setResp_pairR (s : State) (r : Response) : (s.setResp r).pairR = s.pairR := rfl
@[simp] theorem State.setResp_codes (s : State) (r : Response) : (s.setResp r).codes = s.codes := rfl
@[simp] theorem State.setResp_tab (s : State) (r : Response) : (s.setResp r).tab = s.tab := rfl
@[simp] theorem State.setResp_pay (s : State) (r : Response) : (s.setResp r).pay = s.pay := rfl
@[simp] theorem State.setResp_pend (s : State) (r : Response) : (s.setResp r).pend = s.pend := rfl
@[simp] theorem State.setResp_need (s : State) (r : Response) : (s.setResp r).need = s.need := rfl
@[simp] theorem State.setResp_alpha (s : State) (r : Response) : (s.setResp r).alpha = s.alpha := rfl
@[simp] theorem State.setResp_stage (s : State) (r : Response) : (s.setResp r).stage = s.stage := rfl
@[simp] theorem State.setResp_errored (s : State) (r : Response) : (s.setResp r).errored = s.errored := rfl
@[simp] theorem State.setResp_field (s : State) (r : Response) : (s.setResp r).field = s.field := rfl
@[simp] theorem State.setResp_fbuf (s : State) (r : Response) : (s.setResp r).fbuf = s.fbuf := rfl
@[simp] theorem State.setResp_boundary (s : State) (r : Response) : (s.setResp r).boundary = s.boundary := rfl
@[simp] theorem State.setResp_resp (s : State) (r : Response) : (s.setResp r).resp = r := rfl
@[simp] theorem State.setResp_sched (s : State) (r : Response) : (s.setResp r).sched = s.sched := rfl

/-! ### setSched -/

@[simp] theorem State.setSched_cfg (s : State) (l : List Turn) : (s.setSched l).cfg = s.cfg := rfl
@[simp] theorem State.setSched_ctrl (s : State) (l : List Turn) : (s.setSched l).ctrl = s.ctrl := rfl
@[simp] theorem State.setSched_blockSize (s : State) (l : List Turn) : (s.setSched l).blockSize = s.blockSize := rfl
@[simp] theorem State.setSched_inLen (s : State) (l : List Turn) : (s.setSched l).inLen = s.inLen := rfl
@[simp] theorem State.setSched_busy (s : State) (l : List Turn) : (s.setSched l).busy = s.busy := rfl
@[simp] theorem State.setSched_done (s : State) (l : List Turn) : (s.setSched l).done = s.done := rfl
@[simp] theorem State.setSched_err (s : State) (l : List Turn) : (s.setSched l).err = s.err := rfl
@[simp] theorem State.setSched_cmdErr (s : State) (l : List Turn) : (s.setSched l).cmdErr = s.cmdErr := rfl
@[simp] theorem State.setSched_aborted (s : State) (l : List Turn) : (s.setSched l).aborted = s.aborted := rfl
@[simp] theorem State.setSched_errInfo (s : State) (l : List Turn) : (s.setSched l).errInfo = s.errInfo := rfl
@[simp] theorem State.setSched_errBlock (s : State) (l : List Turn) : (s.setSched l).errBlock = s.errBlock := rfl
@[simp] theorem State.setSched_blockCount (s : State) (l : List Turn) : (s.setSched l).blockCount = s.blockCount := rfl
@[simp] theorem State.setSched_inCount (s : State) (l : List Turn) : (s.setSched l).inCount = s.inCount := rfl
@[simp] theorem State.setSched_outCount (s : State) (l : List Turn) : (s.setSched l).outCount = s.outCount := rfl
@[simp] theorem State.setSched_outCommit (s : State) (l : List Turn) : (s.setSched l).outCommit = s.outCommit := rfl
@[simp] theorem State.setSched_inFifo (s : State) (l : List Turn) : (s.setSched l).inFifo = s.inFifo := rfl
@[simp] theorem State.setSched_inAccepted (s : State) (l : List Turn) : (s.setSched l).inAccepted = s.inAccepted := rfl
@[simp] theorem State.setSched_outFifo (s : State) (l : List Turn) : (s.setSched l).outFifo = s.outFifo := rfl
@[simp] theorem State.setSched_op (s : State) (l : List Turn) : (s.setSched l).op = s.op := rfl
@[simp] theorem State.setSched_mode (s : State) (l : List Turn) : (s.setSched l).mode = s.mode := rfl
@[simp] theorem State.setSched_latBs (s : State) (l : List Turn) : (s.setSched l).latBs = s.latBs := rfl
@[simp] theorem State.setSched_latLen (s : State) (l : List Turn) : (s.setSched l).latLen = s.latLen := rfl
@[simp] theorem State.setSched_blk (s : State) (l : List Turn) : (s.setSched l).blk = s.blk := rfl
@[simp] theorem State.setSched_colL (s : State) (l : List Turn) : (s.setSched l).colL = s.colL := rfl
@[simp] theorem State.setSched_pidx (s : State) (l : List Turn) : (s.setSched l).pidx = s.pidx := rfl
@[simp] theorem State.setSched_rankM (s : State) (l : List Turn) : (s.setSched l).rankM = s.rankM := rfl
@[simp] theorem State.setSched_pairR (s : State) (l : List Turn) : (s.setSched l).pairR = s.pairR := rfl
@[simp] theorem State.setSched_codes (s : State) (l : List Turn) : (s.setSched l).codes = s.codes := rfl
@[simp] theorem State.setSched_tab (s : State) (l : List Turn) : (s.setSched l).tab = s.tab := rfl
@[simp] theorem State.setSched_pay (s : State) (l : List Turn) : (s.setSched l).pay = s.pay := rfl
@[simp] theorem State.setSched_pend (s : State) (l : List Turn) : (s.setSched l).pend = s.pend := rfl
@[simp] theorem State.setSched_need (s : State) (l : List Turn) : (s.setSched l).need = s.need := rfl
@[simp] theorem State.setSched_alpha (s : State) (l : List Turn) : (s.setSched l).alpha = s.alpha := rfl
@[simp] theorem State.setSched_stage (s : State) (l : List Turn) : (s.setSched l).stage = s.stage := rfl
@[simp] theorem State.setSched_errored (s : State) (l : List Turn) : (s.setSched l).errored = s.errored := rfl
@[simp] theorem State.setSched_field (s : State) (l : List Turn) : (s.setSched l).field = s.field := rfl
@[simp] theorem State.setSched_fbuf (s : State) (l : List Turn) : (s.setSched l).fbuf = s.fbuf := rfl
@[simp] theorem State.setSched_boundary (s : State) (l : List Turn) : (s.setSched l).boundary = s.boundary := rfl
@[simp] theorem State.setSched_resp (s : State) (l : List Turn) : (s.setSched l).resp = s.resp := rfl
@[simp] theorem State.setSched_sched (s : State) (l : List Turn) : (s.setSched l).sched = l := rfl

/-! ### raise -/

@[simp] theorem State.raise_cfg (s : State) (k : ErrKind) (S : Stage) : (s.raise k S).cfg = s.cfg := rfl
@[simp] theorem State.raise_ctrl (s : State) (k : ErrKind) (S : Stage) : (s.raise k S).ctrl = s.ctrl := rfl
@[simp] theorem State.raise_blockSize (s : State) (k : ErrKind) (S : Stage) : (s.raise k S).blockSize = s.blockSize := rfl
@[simp] theorem State.raise_inLen (s : State) (k : ErrKind) (S : Stage) : (s.raise k S).inLen = s.inLen := rfl
@[simp] theorem State.raise_busy (s : State) (k : ErrKind) (S : Stage) : (s.raise k S).busy = s.busy := rfl
@[simp] theorem State.raise_done (s : State) (k : ErrKind) (S : Stage) : (s.raise k S).done = s.done := rfl
@[simp] theorem State.raise_err (s : State) (k : ErrKind) (S : Stage) : (s.raise k S).err = true := rfl
@[simp] theorem State.raise_cmdErr (s : State) (k : ErrKind) (S : Stage) : (s.raise k S).cmdErr = s.cmdErr := rfl
@[simp] theorem State.raise_aborted (s : State) (k : ErrKind) (S : Stage) : (s.raise k S).aborted = s.aborted := rfl
@[simp] theorem State.raise_errInfo (s : State) (k : ErrKind) (S : Stage) : (s.raise k S).errInfo = errWord k S := rfl
@[simp] theorem State.raise_errBlock (s : State) (k : ErrKind) (S : Stage) : (s.raise k S).errBlock = s.blockCount := rfl
@[simp] theorem State.raise_blockCount (s : State) (k : ErrKind) (S : Stage) : (s.raise k S).blockCount = s.blockCount := rfl
@[simp] theorem State.raise_inCount (s : State) (k : ErrKind) (S : Stage) : (s.raise k S).inCount = s.inCount := rfl
@[simp] theorem State.raise_outCount (s : State) (k : ErrKind) (S : Stage) : (s.raise k S).outCount = s.outCount := rfl
@[simp] theorem State.raise_outCommit (s : State) (k : ErrKind) (S : Stage) : (s.raise k S).outCommit = s.outCommit := rfl
@[simp] theorem State.raise_inFifo (s : State) (k : ErrKind) (S : Stage) : (s.raise k S).inFifo = s.inFifo := rfl
@[simp] theorem State.raise_inAccepted (s : State) (k : ErrKind) (S : Stage) : (s.raise k S).inAccepted = s.inAccepted := rfl
@[simp] theorem State.raise_outFifo (s : State) (k : ErrKind) (S : Stage) : (s.raise k S).outFifo = s.outFifo := rfl
@[simp] theorem State.raise_op (s : State) (k : ErrKind) (S : Stage) : (s.raise k S).op = s.op := rfl
@[simp] theorem State.raise_mode (s : State) (k : ErrKind) (S : Stage) : (s.raise k S).mode = s.mode := rfl
@[simp] theorem State.raise_latBs (s : State) (k : ErrKind) (S : Stage) : (s.raise k S).latBs = s.latBs := rfl
@[simp] theorem State.raise_latLen (s : State) (k : ErrKind) (S : Stage) : (s.raise k S).latLen = s.latLen := rfl
@[simp] theorem State.raise_blk (s : State) (k : ErrKind) (S : Stage) : (s.raise k S).blk = s.blk := rfl
@[simp] theorem State.raise_colL (s : State) (k : ErrKind) (S : Stage) : (s.raise k S).colL = s.colL := rfl
@[simp] theorem State.raise_pidx (s : State) (k : ErrKind) (S : Stage) : (s.raise k S).pidx = s.pidx := rfl
@[simp] theorem State.raise_rankM (s : State) (k : ErrKind) (S : Stage) : (s.raise k S).rankM = s.rankM := rfl
@[simp] theorem State.raise_pairR (s : State) (k : ErrKind) (S : Stage) : (s.raise k S).pairR = s.pairR := rfl
@[simp] theorem State.raise_codes (s : State) (k : ErrKind) (S : Stage) : (s.raise k S).codes = s.codes := rfl
@[simp] theorem State.raise_tab (s : State) (k : ErrKind) (S : Stage) : (s.raise k S).tab = s.tab := rfl
@[simp] theorem State.raise_pay (s : State) (k : ErrKind) (S : Stage) : (s.raise k S).pay = s.pay := rfl
@[simp] theorem State.raise_pend (s : State) (k : ErrKind) (S : Stage) : (s.raise k S).pend = s.pend := rfl
@[simp] theorem State.raise_need (s : State) (k : ErrKind) (S : Stage) : (s.raise k S).need = s.need := rfl
@[simp] theorem State.raise_alpha (s : State) (k : ErrKind) (S : Stage) : (s.raise k S).alpha = s.alpha := rfl
@[simp] theorem State.raise_stage (s : State) (k : ErrKind) (S : Stage) : (s.raise k S).stage = .drain := rfl
@[simp] theorem State.raise_errored (s : State) (k : ErrKind) (S : Stage) : (s.raise k S).errored = true := rfl
@[simp] theorem State.raise_field (s : State) (k : ErrKind) (S : Stage) : (s.raise k S).field = s.field := rfl
@[simp] theorem State.raise_fbuf (s : State) (k : ErrKind) (S : Stage) : (s.raise k S).fbuf = s.fbuf := rfl
@[simp] theorem State.raise_boundary (s : State) (k : ErrKind) (S : Stage) : (s.raise k S).boundary = s.boundary := rfl
@[simp] theorem State.raise_resp (s : State) (k : ErrKind) (S : Stage) : (s.raise k S).resp = s.resp := rfl
@[simp] theorem State.raise_sched (s : State) (k : ErrKind) (S : Stage) : (s.raise k S).sched = s.sched := rfl

/-! ### refuseCommand -/

@[simp] theorem State.refuseCommand_cfg (s : State) : (s.refuseCommand).cfg = s.cfg := rfl
@[simp] theorem State.refuseCommand_ctrl (s : State) : (s.refuseCommand).ctrl = s.ctrl := rfl
@[simp] theorem State.refuseCommand_blockSize (s : State) : (s.refuseCommand).blockSize = s.blockSize := rfl
@[simp] theorem State.refuseCommand_inLen (s : State) : (s.refuseCommand).inLen = s.inLen := rfl
@[simp] theorem State.refuseCommand_busy (s : State) : (s.refuseCommand).busy = s.busy := rfl
@[simp] theorem State.refuseCommand_done (s : State) : (s.refuseCommand).done = s.done := rfl
@[simp] theorem State.refuseCommand_err (s : State) : (s.refuseCommand).err = s.err := rfl
@[simp] theorem State.refuseCommand_cmdErr (s : State) : (s.refuseCommand).cmdErr = true := rfl
@[simp] theorem State.refuseCommand_aborted (s : State) : (s.refuseCommand).aborted = s.aborted := rfl
@[simp] theorem State.refuseCommand_errInfo (s : State) : (s.refuseCommand).errInfo = s.errInfo := rfl
@[simp] theorem State.refuseCommand_errBlock (s : State) : (s.refuseCommand).errBlock = s.errBlock := rfl
@[simp] theorem State.refuseCommand_blockCount (s : State) : (s.refuseCommand).blockCount = s.blockCount := rfl
@[simp] theorem State.refuseCommand_inCount (s : State) : (s.refuseCommand).inCount = s.inCount := rfl
@[simp] theorem State.refuseCommand_outCount (s : State) : (s.refuseCommand).outCount = s.outCount := rfl
@[simp] theorem State.refuseCommand_outCommit (s : State) : (s.refuseCommand).outCommit = s.outCommit := rfl
@[simp] theorem State.refuseCommand_inFifo (s : State) : (s.refuseCommand).inFifo = s.inFifo := rfl
@[simp] theorem State.refuseCommand_inAccepted (s : State) : (s.refuseCommand).inAccepted = s.inAccepted := rfl
@[simp] theorem State.refuseCommand_outFifo (s : State) : (s.refuseCommand).outFifo = s.outFifo := rfl
@[simp] theorem State.refuseCommand_op (s : State) : (s.refuseCommand).op = s.op := rfl
@[simp] theorem State.refuseCommand_mode (s : State) : (s.refuseCommand).mode = s.mode := rfl
@[simp] theorem State.refuseCommand_latBs (s : State) : (s.refuseCommand).latBs = s.latBs := rfl
@[simp] theorem State.refuseCommand_latLen (s : State) : (s.refuseCommand).latLen = s.latLen := rfl
@[simp] theorem State.refuseCommand_blk (s : State) : (s.refuseCommand).blk = s.blk := rfl
@[simp] theorem State.refuseCommand_colL (s : State) : (s.refuseCommand).colL = s.colL := rfl
@[simp] theorem State.refuseCommand_pidx (s : State) : (s.refuseCommand).pidx = s.pidx := rfl
@[simp] theorem State.refuseCommand_rankM (s : State) : (s.refuseCommand).rankM = s.rankM := rfl
@[simp] theorem State.refuseCommand_pairR (s : State) : (s.refuseCommand).pairR = s.pairR := rfl
@[simp] theorem State.refuseCommand_codes (s : State) : (s.refuseCommand).codes = s.codes := rfl
@[simp] theorem State.refuseCommand_tab (s : State) : (s.refuseCommand).tab = s.tab := rfl
@[simp] theorem State.refuseCommand_pay (s : State) : (s.refuseCommand).pay = s.pay := rfl
@[simp] theorem State.refuseCommand_pend (s : State) : (s.refuseCommand).pend = s.pend := rfl
@[simp] theorem State.refuseCommand_need (s : State) : (s.refuseCommand).need = s.need := rfl
@[simp] theorem State.refuseCommand_alpha (s : State) : (s.refuseCommand).alpha = s.alpha := rfl
@[simp] theorem State.refuseCommand_stage (s : State) : (s.refuseCommand).stage = s.stage := rfl
@[simp] theorem State.refuseCommand_errored (s : State) : (s.refuseCommand).errored = s.errored := rfl
@[simp] theorem State.refuseCommand_field (s : State) : (s.refuseCommand).field = s.field := rfl
@[simp] theorem State.refuseCommand_fbuf (s : State) : (s.refuseCommand).fbuf = s.fbuf := rfl
@[simp] theorem State.refuseCommand_boundary (s : State) : (s.refuseCommand).boundary = s.boundary := rfl
@[simp] theorem State.refuseCommand_resp (s : State) : (s.refuseCommand).resp = s.resp := rfl
@[simp] theorem State.refuseCommand_sched (s : State) : (s.refuseCommand).sched = s.sched := rfl

/-! ### commitBlock -/

@[simp] theorem State.commitBlock_cfg (s : State) : (s.commitBlock).cfg = s.cfg := rfl
@[simp] theorem State.commitBlock_ctrl (s : State) : (s.commitBlock).ctrl = s.ctrl := rfl
@[simp] theorem State.commitBlock_blockSize (s : State) : (s.commitBlock).blockSize = s.blockSize := rfl
@[simp] theorem State.commitBlock_inLen (s : State) : (s.commitBlock).inLen = s.inLen := rfl
@[simp] theorem State.commitBlock_busy (s : State) : (s.commitBlock).busy = s.busy := rfl
@[simp] theorem State.commitBlock_done (s : State) : (s.commitBlock).done = s.done := rfl
@[simp] theorem State.commitBlock_err (s : State) : (s.commitBlock).err = s.err := rfl
@[simp] theorem State.commitBlock_cmdErr (s : State) : (s.commitBlock).cmdErr = s.cmdErr := rfl
@[simp] theorem State.commitBlock_aborted (s : State) : (s.commitBlock).aborted = s.aborted := rfl
@[simp] theorem State.commitBlock_errInfo (s : State) : (s.commitBlock).errInfo = s.errInfo := rfl
@[simp] theorem State.commitBlock_errBlock (s : State) : (s.commitBlock).errBlock = s.errBlock := rfl
@[simp] theorem State.commitBlock_blockCount (s : State) : (s.commitBlock).blockCount = s.blockCount + 1 := rfl
@[simp] theorem State.commitBlock_inCount (s : State) : (s.commitBlock).inCount = s.inCount := rfl
@[simp] theorem State.commitBlock_outCount (s : State) : (s.commitBlock).outCount = s.outCount := rfl
@[simp] theorem State.commitBlock_outCommit (s : State) : (s.commitBlock).outCommit = s.outCount := rfl
@[simp] theorem State.commitBlock_inFifo (s : State) : (s.commitBlock).inFifo = s.inFifo := rfl
@[simp] theorem State.commitBlock_inAccepted (s : State) : (s.commitBlock).inAccepted = s.inAccepted := rfl
@[simp] theorem State.commitBlock_outFifo (s : State) : (s.commitBlock).outFifo = s.outFifo := rfl
@[simp] theorem State.commitBlock_op (s : State) : (s.commitBlock).op = s.op := rfl
@[simp] theorem State.commitBlock_mode (s : State) : (s.commitBlock).mode = s.mode := rfl
@[simp] theorem State.commitBlock_latBs (s : State) : (s.commitBlock).latBs = s.latBs := rfl
@[simp] theorem State.commitBlock_latLen (s : State) : (s.commitBlock).latLen = s.latLen := rfl
@[simp] theorem State.commitBlock_blk (s : State) : (s.commitBlock).blk = s.blk := rfl
@[simp] theorem State.commitBlock_colL (s : State) : (s.commitBlock).colL = s.colL := rfl
@[simp] theorem State.commitBlock_pidx (s : State) : (s.commitBlock).pidx = s.pidx := rfl
@[simp] theorem State.commitBlock_rankM (s : State) : (s.commitBlock).rankM = s.rankM := rfl
@[simp] theorem State.commitBlock_pairR (s : State) : (s.commitBlock).pairR = s.pairR := rfl
@[simp] theorem State.commitBlock_codes (s : State) : (s.commitBlock).codes = s.codes := rfl
@[simp] theorem State.commitBlock_tab (s : State) : (s.commitBlock).tab = s.tab := rfl
@[simp] theorem State.commitBlock_pay (s : State) : (s.commitBlock).pay = s.pay := rfl
@[simp] theorem State.commitBlock_pend (s : State) : (s.commitBlock).pend = s.pend := rfl
@[simp] theorem State.commitBlock_need (s : State) : (s.commitBlock).need = s.need := rfl
@[simp] theorem State.commitBlock_alpha (s : State) : (s.commitBlock).alpha = s.alpha := rfl
@[simp] theorem State.commitBlock_stage (s : State) : (s.commitBlock).stage = s.stage := rfl
@[simp] theorem State.commitBlock_errored (s : State) : (s.commitBlock).errored = s.errored := rfl
@[simp] theorem State.commitBlock_field (s : State) : (s.commitBlock).field = s.field := rfl
@[simp] theorem State.commitBlock_fbuf (s : State) : (s.commitBlock).fbuf = s.fbuf := rfl
@[simp] theorem State.commitBlock_boundary (s : State) : (s.commitBlock).boundary = true := rfl
@[simp] theorem State.commitBlock_resp (s : State) : (s.commitBlock).resp = s.resp := rfl
@[simp] theorem State.commitBlock_sched (s : State) : (s.commitBlock).sched = s.sched := rfl

end Sys2Proof.Machine
end

