-- ==== Sys2Proof/Laws/Ops.lean ====
section
/-! SUPPORT. What each shared operation can do, said once: proofs about meanings and steps cite these and do not
unfold the operations. -/

namespace Sys2Proof.Machine

/-! ### The ports -/

theorem State.inPop_eq_none (s : State) : s.inPop = none ↔ s.inFifo = [] := by
  unfold State.inPop
  split <;> simp_all

theorem State.inPop_eq_some (s t : State) (b : Byte) :
    s.inPop = some (b, t) ↔
      ∃ rest, s.inFifo = b :: rest ∧ t = { s with inFifo := rest, inCount := s.inCount + 1 } := by
  unfold State.inPop
  split
  · simp_all
  · simp_all [eq_comm]

theorem State.inReady_iff (s : State) :
    s.inReady = true ↔
      s.busy = true ∧ s.inFifo.length < s.cfg.inFifoDepth ∧ s.inAccepted.toNat < s.latLen.toNat := by
  simp [State.inReady, and_assoc]

theorem State.outRoom_iff (s : State) : s.outRoom = true ↔ s.outFifo.length < s.cfg.outFifoDepth := by
  simp [State.outRoom]

theorem State.rem_eq_zero (s : State) : s.rem = 0 ↔ s.latLen.toNat ≤ s.inCount.toNat := by
  simp [State.rem, Nat.sub_eq_zero_iff_le]

theorem State.hostPush_cases (s : State) (b : Byte) :
    (s.inReady = true ∧ s.hostPush b = s.acceptIn b) ∨ (s.inReady = false ∧ s.hostPush b = s.setResp .waits) := by
  cases h : s.inReady <;> simp [State.hostPush, h]

theorem State.hostPop_cases (s : State) :
    (s.outFifo = [] ∧ s.hostPop = s.setResp .waits) ∨
      ∃ b rest, s.outFifo = b :: rest ∧ s.hostPop = { s with outFifo := rest, resp := .byte b } := by
  unfold State.hostPop
  split <;> simp_all

/-! ### The commands -/

theorem State.startOrRefuse_busy (s : State) (o : Op) (h : s.busy = true) :
    s.startOrRefuse o = s.refuseCommand := by simp [State.startOrRefuse, h]

theorem State.startOrRefuse_idle (s : State) (o : Op) (h : s.busy = false) :
    s.startOrRefuse o = s.commandStart o := by simp [State.startOrRefuse, h]

theorem State.abort_idle (s : State) (h : s.busy = false) : s.abort = s := by simp [State.abort, h]

theorem State.abort_busy (s : State) (h : s.busy = true) :
    s.abort = { s with inFifo := [], aborted := true, busy := false, stage := .idle, boundary := false } := by
  simp [State.abort, h]

/-- A CMD write is one of four things (45_commands.md R154). -/
theorem State.commandWrite_cases (s : State) (v : Word) :
    (v.toNat = 0 ∧ s.commandWrite v = s) ∨ (v.toNat = 1 ∧ s.commandWrite v = s.startOrRefuse .compress) ∨
      (v.toNat = 2 ∧ s.commandWrite v = s.startOrRefuse .decompress) ∨
      (v.toNat = 3 ∧ s.commandWrite v = s.abort) ∨ (4 ≤ v.toNat ∧ s.commandWrite v = s.refuseCommand) := by
  unfold State.commandWrite
  split <;> simp_all
  omega

/-! ### The stages -/

theorem State.settle_ok (s t : State) (S : Stage) : s.settle S (.ok t) = .next t := rfl

theorem State.settle_error (s : State) (S : Stage) (k : ErrKind) :
    s.settle S (.error k) = .next (s.raise k S) := rfl

theorem moveTo_ok (S : Stage) (t : State) : moveTo S (.ok t) = .ok (t.setStage S) := rfl

theorem moveTo_error (S : Stage) (k : ErrKind) : moveTo S (.error k) = .error k := rfl

/-- FRAMED and JOIN commit, push or hold (44_pipeline.md R139, R145). -/
theorem State.pushPending_cases (s : State) :
    (s.pend = [] ∧ s.pushPending = s.commitBlock) ∨
      (∃ b rest, s.pend = b :: rest ∧ s.outRoom = true ∧ s.pushPending = { s.outPush b with pend := rest }) ∨
      (s.pend ≠ [] ∧ s.outRoom = false ∧ s.pushPending = s) := by
  unfold State.pushPending
  split
  · simp_all
  · cases h : s.outRoom <;> simp_all

/-- The block boundary step ends the command or enters a stage (44_pipeline.md R132). -/
theorem State.boundaryStep_cases (s : State) :
    (s.rem = 0 ∧ s.boundaryStep = s.endDone) ∨
      (s.rem ≠ 0 ∧ s.op = .compress ∧ s.boundaryStep = s.enterSplit) ∨
      (s.rem ≠ 0 ∧ s.op = .decompress ∧ s.boundaryStep = s.enterUnframe) := by
  unfold State.boundaryStep
  split
  · simp_all
  · cases h : s.op <;> simp_all

/-- DRAIN ends, discards a byte or holds (44_pipeline.md R147). -/
theorem State.drainStep_cases (s : State) :
    (s.rem = 0 ∧ s.drainStep = s.endDrain) ∨
      (∃ b rest, s.rem ≠ 0 ∧ s.inFifo = b :: rest ∧
        s.drainStep = { s with inFifo := rest, inCount := s.inCount + 1 }) ∨
      (s.rem ≠ 0 ∧ s.inFifo = [] ∧ s.drainStep = s) := by
  unfold State.drainStep State.inPop
  split
  · simp_all
  · cases h : s.inFifo <;> simp_all

/-- SPLIT takes a byte, holds or moves on (44_pipeline.md R133). -/
theorem execSplit_cases (s : State) :
    (∃ b rest, s.blk.length < s.latBs.toNat ∧ 0 < s.rem ∧ s.inFifo = b :: rest ∧
        execSplit s = .next { s with inFifo := rest, inCount := s.inCount + 1, blk := s.blk ++ [b] }) ∨
      (s.blk.length < s.latBs.toNat ∧ 0 < s.rem ∧ s.inFifo = [] ∧ execSplit s = .next s) ∨
      (¬(s.blk.length < s.latBs.toNat ∧ 0 < s.rem) ∧ execSplit s = .next (s.setStage .bwt)) := by
  unfold execSplit State.inPop
  split
  · cases h : s.inFifo <;> simp_all
  · simp_all

/-- The three byte reads of UNFRAME take a byte or hold (44_pipeline.md R129, R140). -/
theorem State.takeFieldByte_cases (s : State) :
    (s.inFifo = [] ∧ s.takeFieldByte = s) ∨
      ∃ b rest, s.inFifo = b :: rest ∧ s.takeFieldByte =
        { s with inFifo := rest, inCount := s.inCount + 1, fbuf := s.fbuf ++ [b], need := s.need - 1 } := by
  unfold State.takeFieldByte State.inPop
  cases h : s.inFifo <;> simp

theorem State.takeTabByte_cases (s : State) :
    (s.inFifo = [] ∧ s.takeTabByte = s) ∨
      ∃ b rest, s.inFifo = b :: rest ∧ s.takeTabByte =
        { s with inFifo := rest, inCount := s.inCount + 1, tab := s.tab ++ [b], need := s.need - 1 } := by
  unfold State.takeTabByte State.inPop
  cases h : s.inFifo <;> simp

theorem State.takePayByte_cases (s : State) :
    (s.inFifo = [] ∧ s.takePayByte = s) ∨
      ∃ b rest, s.inFifo = b :: rest ∧ s.takePayByte =
        { s with inFifo := rest, inCount := s.inCount + 1, pay := s.pay ++ [b], need := s.need - 1 } := by
  unfold State.takePayByte State.inPop
  cases h : s.inFifo <;> simp

/-! ### The register window -/

theorem State.busRead_aligned (s : State) (off : BitVec 6) (h : alignedOffset off = true) :
    s.busRead off = s.setResp (.data (s.readReg off)) := by simp [State.busRead, h]

theorem State.busWrite_aligned (s : State) (off : BitVec 6) (v : Word) (h : alignedOffset off = true) :
    s.busWrite off v = (s.writeReg off v).setResp .done := by simp [State.busWrite, h]

/-- What a register write can change: CTRL, BLOCK_SIZE, IN_LEN, the W1C bits, or what a command does
(20_memory.md R65). -/
theorem State.writeReg_cases (s : State) (off : BitVec 6) (v : Word) :
    (off = 0x04 ∧ s.writeReg off v = { s with ctrl := v &&& 7 }) ∨
      (off = 0x08 ∧ 1 ≤ v.toNat ∧ v.toNat ≤ s.cfg.maxBlockSize ∧ s.writeReg off v = { s with blockSize := v }) ∨
      (off = 0x0C ∧ s.writeReg off v = { s with inLen := v }) ∨
      (off = 0x10 ∧ s.writeReg off v = s.commandWrite v) ∨
      (off = 0x14 ∧ s.writeReg off v = s.w1c v) ∨ s.writeReg off v = s := by
  unfold State.writeReg
  split <;> rename_i h
  · exact .inl ⟨BitVec.eq_of_toNat_eq h, rfl⟩
  · split <;> rename_i h'
    · exact .inr (.inl ⟨BitVec.eq_of_toNat_eq h, h'.1, h'.2, rfl⟩)
    · simp
  · exact .inr (.inr (.inl ⟨BitVec.eq_of_toNat_eq h, rfl⟩))
  · exact .inr (.inr (.inr (.inl ⟨BitVec.eq_of_toNat_eq h, rfl⟩)))
  · exact .inr (.inr (.inr (.inr (.inl ⟨BitVec.eq_of_toNat_eq h, rfl⟩))))
  · simp

/-! ### Error entry and spelling -/

/-- `raise` is error entry with its kind and stage (60_exceptions.md R172). -/
theorem State.raise_eq_errorEntry (k : ErrKind) (S : Stage) (s : State) :
    s.raise k S = s.errorEntry (errWord k S) := rfl

@[simp] theorem spells_nil (c : Codes) (w : Bits) : Spells c [] w ↔ w = [] := by
  simp [Spells, List.forall₂_nil_left_iff]

/-- The bits of a symbol and the rest are its code and the bits of the rest. -/
theorem spells_cons (c : Codes) (s : Byte) (R : List Byte) (w : Bits) :
    Spells c (s :: R) w ↔ ∃ u v, (s, u) ∈ c ∧ Spells c R v ∧ w = u ++ v := by
  constructor
  · rintro ⟨ws, hws, rfl⟩
    cases hws with
    | cons h hs => exact ⟨_, _, h, ⟨_, hs, rfl⟩, rfl⟩
  · rintro ⟨u, _, h, ⟨vs, hs, rfl⟩, rfl⟩
    exact ⟨u :: vs, .cons h hs, rfl⟩

/-! ### The alphabet -/

/-- The identity alphabet is a permutation of the 256 byte values (10_state.md R51; 41_mtf.md R108). -/
theorem identityAlphabet_ok : identityAlphabet.length = 256 ∧ identityAlphabet.Nodup := by
  refine ⟨by simp [identityAlphabet], List.Nodup.map_on (fun a ha b hb h => ?_) List.nodup_range⟩
  simp only [List.mem_range] at ha hb
  have := congrArg BitVec.toNat h
  simpa [Nat.mod_eq_of_lt ha, Nat.mod_eq_of_lt hb] using this

/-! ### The turns -/

@[simp] theorem Stage.instr_eq (S : Stage) :
    S.instr = match S with
      | .idle => .idle | .split => .split | .bwt => .bwt | .mtf => .mtf | .rle => .rle | .entropy => .entropy
      | .framed => .framed | .unframe => .unframe | .entropyInv => .entropyInv | .rleInv => .rleInv
      | .mtfInv => .mtfInv | .bwtInv => .bwtInv | .join => .join | .drain => .drain := by
  cases S <;> rfl

/-- The code of a stage reads back as the stage (10_state.md R36). -/
theorem Stage.ofCode?_code (S : Stage) : Stage.ofCode? S.code = some S := by cases S <;> rfl

/-- Both forms of the engine's turn are one turn of the engine (assumption log 3). -/
theorem step_of_engineNext {s u : State} (h : s.EngineNext u) : step s = engineTurn u := by
  obtain ⟨h, rfl⟩ | ⟨rest, h, rfl⟩ := h <;> simp [step, h, State.setSched]

theorem engineTurn_idle (s : State) (h : s.busy = false) : engineTurn s = .next s := by
  simp [engineTurn, h, exec, execIdle]

theorem engineTurn_boundary (s : State) (h : s.busy = true) (hb : s.boundary = true) :
    engineTurn s = .next s.boundaryStep := by simp [engineTurn, h, hb]

theorem engineTurn_stage (s : State) (h : s.busy = true) (hb : s.boundary = false) :
    engineTurn s = exec s.stage.instr s := by simp [engineTurn, h, hb]

end Sys2Proof.Machine
end

