-- ==== Sys2Proof/Laws/PerInstr.lean ====
section
/-! SUPPORT. For every instruction: its code word is in the format of its row of the opcode table and meets the row's
match and mask (30_encoding.md R79). -/

namespace Sys2Proof.Laws.TableRow

/-- The code word of a well-formed instruction meets its row of the opcode table. -/
def Statement (i : Instr) : Prop := wellFormed i = true → i.row.matchesCode (encode i) = true

theorem nop : Statement .nop := fun _ => rfl
theorem compress : Statement .compress := fun _ => rfl
theorem decompress : Statement .decompress := fun _ => rfl
theorem abort : Statement .abort := fun _ => rfl
theorem reservedCmd (v : Word) : Statement (.reservedCmd v) := fun _ => by simp [Row.matchesCode, Code.bits, Instr.row, encode]
theorem idle : Statement .idle := fun _ => rfl
theorem split : Statement .split := fun _ => rfl
theorem bwt : Statement .bwt := fun _ => rfl
theorem mtf : Statement .mtf := fun _ => rfl
theorem rle : Statement .rle := fun _ => rfl
theorem entropy : Statement .entropy := fun _ => rfl
theorem framed : Statement .framed := fun _ => rfl
theorem unframe : Statement .unframe := fun _ => rfl
theorem entropyInv : Statement .entropyInv := fun _ => rfl
theorem rleInv : Statement .rleInv := fun _ => rfl
theorem mtfInv : Statement .mtfInv := fun _ => rfl
theorem bwtInv : Statement .bwtInv := fun _ => rfl
theorem join : Statement .join := fun _ => rfl
theorem drain : Statement .drain := fun _ => rfl
theorem bwtFwdExplicit : Statement .bwtFwdExplicit := fun _ => rfl
theorem bwtFwdSentinel : Statement .bwtFwdSentinel := fun _ => rfl
theorem bwtInvExplicit : Statement .bwtInvExplicit := fun _ => rfl
theorem bwtInvSentinel : Statement .bwtInvSentinel := fun _ => rfl
theorem mtfEnc : Statement .mtfEnc := fun _ => rfl
theorem mtfDec : Statement .mtfDec := fun _ => rfl
theorem rleEnc : Statement .rleEnc := fun _ => rfl
theorem rleDec : Statement .rleDec := fun _ => rfl
theorem hufEnc : Statement .hufEnc := fun _ => rfl
theorem hufDec : Statement .hufDec := fun _ => rfl
theorem tabParse : Statement .tabParse := fun _ => rfl
theorem regRead (off : BitVec 6) : Statement (.regRead off) := fun _ => rfl
theorem regWrite (off : BitVec 6) (data : Word) : Statement (.regWrite off data) := fun _ => rfl
theorem inPush (b : Byte) : Statement (.inPush b) := fun _ => rfl
theorem outPop : Statement .outPop := fun _ => rfl
theorem reset : Statement .reset := fun _ => rfl

end Sys2Proof.Laws.TableRow
end

