-- ==== Sys2Proof/Tests/Slice0.lean ====
section
/-! SUPPORT. Small tests. The expected values are those of spec/95_test_vectors.md (its row named in the docstring) or
are written out from the encoding tables; then, for every statement of the obligations that has hypotheses, a state
and operands that meet them. -/

namespace Sys2Proof.Tests

set_option Elab.async false

open Sys2Proof Sys2Proof.Machine

/-! ### Helpers -/

/-- A byte sequence from its numbers. -/
def bs (l : List Nat) : List Byte := l.map (BitVec.ofNat 8)

/-- The outcome is a next state with the property. -/
def nextIs (o : Result) (p : State → Bool) : Bool :=
  match o with
  | .next t => p t
  | .fault _ | .refused _ => false

/-- The state of an outcome. -/
def after (o : Result) (s : State) : State :=
  match o with
  | .next t => t
  | .fault _ | .refused _ => s

/-- A small legal configuration. -/
def small : Config where
  maxBlockSize := 8
  inFifoDepth := 4
  outFifoDepth := 4
  idValue := 0x42575407
  regBase := 64

/-- Reset in the small configuration. -/
def base : State := State.resetOf small

/-- A command running at a stage, with four bytes of input, none of them here yet. -/
def running (o : Op) (S : Stage) : State := { base with op := o, busy := true, stage := S, latLen := 4 }

/-- The status word after register writes made from reset in the reference configuration, in order. -/
def statusAfter (l : List (Nat × Nat)) : Nat :=
  (l.foldl (fun s p => after (exec (.regWrite (BitVec.ofNat 6 p.1) (BitVec.ofNat 32 p.2)) s) s) State.reset).statusWord.toNat

/-! ### WellFormed: one ill-formed term for each check -/

theorem test_wf_command_value_of_another_row : wellFormed (.reservedCmd 3) = false := by decide
theorem test_wf_first_reserved_value : wellFormed (.reservedCmd 4) = true := by decide
theorem test_wf_read_unaligned : wellFormed (.regRead 0x02) = false := by decide
theorem test_wf_write_unaligned : wellFormed (.regWrite 0x05 0) = false := by decide
theorem test_wf_last_register : wellFormed (.regRead 0x3C) = true := by decide

/-! ### Decode: the word of every row, written out from its encoding (30_encoding.md R77, R79; 10_state.md R36) -/

theorem test_decode_cmd_rows :
    decode (.host (.command 0b00000000000000000000000000000000)) = .ok .nop ∧
    decode (.host (.command 0b00000000000000000000000000000001)) = .ok .compress ∧
    decode (.host (.command 0b00000000000000000000000000000010)) = .ok .decompress ∧
    decode (.host (.command 0b00000000000000000000000000000011)) = .ok .abort ∧
    decode (.host (.command 0b00000000000000000000000000000100)) = .ok (.reservedCmd 4) ∧
    decode (.host (.command 0b10000000000000000000000000000001)) = .ok (.reservedCmd 0x80000001) := ⟨rfl, rfl, rfl, rfl, rfl, rfl⟩

theorem test_decode_stage_rows :
    decode (.stage 0b0000) = .ok .idle ∧ decode (.stage 0b0001) = .ok .split ∧ decode (.stage 0b0010) = .ok .bwt ∧
    decode (.stage 0b0011) = .ok .mtf ∧ decode (.stage 0b0100) = .ok .rle ∧ decode (.stage 0b0101) = .ok .entropy ∧
    decode (.stage 0b0110) = .ok .framed ∧ decode (.stage 0b0111) = .ok .unframe ∧
    decode (.stage 0b1000) = .ok .entropyInv ∧ decode (.stage 0b1001) = .ok .rleInv ∧
    decode (.stage 0b1010) = .ok .mtfInv ∧ decode (.stage 0b1011) = .ok .bwtInv ∧
    decode (.stage 0b1100) = .ok .join ∧ decode (.stage 0b1101) = .ok .drain :=
  ⟨rfl, rfl, rfl, rfl, rfl, rfl, rfl, rfl, rfl, rfl, rfl, rfl, rfl, rfl⟩

theorem test_decode_reserved_stages :
    decode (.stage 0b1110) = .error .reservedStage ∧ decode (.stage 0b1111) = .error .reservedStage := ⟨rfl, rfl⟩

theorem test_decode_stageOp_rows :
    decode (.stageOp 0b00010 false) = .ok .bwtFwdExplicit ∧ decode (.stageOp 0b10010 false) = .ok .bwtFwdSentinel ∧
    decode (.stageOp 0b01011 false) = .ok .bwtInvExplicit ∧ decode (.stageOp 0b11011 false) = .ok .bwtInvSentinel ∧
    decode (.stageOp 0b00011 false) = .ok .mtfEnc ∧ decode (.stageOp 0b10011 false) = .ok .mtfEnc ∧
    decode (.stageOp 0b11010 false) = .ok .mtfDec ∧ decode (.stageOp 0b10100 false) = .ok .rleEnc ∧
    decode (.stageOp 0b01001 false) = .ok .rleDec ∧ decode (.stageOp 0b00101 false) = .ok .hufEnc ∧
    decode (.stageOp 0b11000 true) = .ok .hufDec ∧ decode (.stageOp 0b01000 false) = .ok .tabParse ∧
    decode (.stageOp 0b00001 false) = .error .noStageOp :=
  ⟨rfl, rfl, rfl, rfl, rfl, rfl, rfl, rfl, rfl, rfl, rfl, rfl, rfl⟩

/-- Offsets 0x14 and 0x0C of a window at 0x40; the data on little-endian lanes (20_memory.md R57, R61). -/
theorem test_decode_host_rows :
    decode (.host (.read 0x54 4)) = .ok (.regRead 0b010100) ∧
    decode (.host (.write 0x4C [0x5D, 0x01, 0x00, 0x80])) = .ok (.regWrite 0b001100 0x8000015D) ∧
    decode (.host (.push 0x41)) = .ok (.inPush 0x41) ∧ decode (.host .pop) = .ok .outPop ∧
    decode (.host .reset) = .ok .reset := ⟨rfl, rfl, rfl, rfl, rfl⟩

/-- V-C28. -/
theorem test_decode_bus_error :
    decode (.host (.read 0x02 4)) = .error .busError ∧ decode (.host (.write 0x04 [1, 0])) = .error .busError :=
  ⟨rfl, rfl⟩

theorem test_table_words :
    decodeTableWord 32 0x00000002 = some .decompress ∧ decodeTableWord 8 0x07 = some .unframe ∧
    decodeTableWord 8 0x12 = some .bwtFwdSentinel ∧ decodeTableWord 8 0x1B = some .bwtInvSentinel ∧
    decodeTableWord 8 0x0E = none ∧ decodeTableWord 0 0 = some .reset := by decide

/-- A placed word is what the next step runs. -/
theorem test_placed_command : nextIs (step (State.reset.withFetchWord 32 1)) (fun t => t.busy && t.stage == .split) = true := by
  decide +kernel
theorem test_placed_stage : nextIs (step (State.reset.withFetchWord 8 4)) (fun t => t.stage == .entropy) = true := by
  decide +kernel
theorem test_placed_stageOp :
    nextIs (step (State.reset.withFetchWord 8 0x12)) (fun t => t.stage == .mtf && t.colL == [0]) = true := by decide +kernel

/-! ### The transforms -/

/-- V-B1. -/
theorem test_bwtFwdExplicit_banana :
    nextIs (exec .bwtFwdExplicit { base with blk := bs [0x62, 0x61, 0x6E, 0x61, 0x6E, 0x61] })
      (fun t => t.colL == bs [0x6E, 0x6E, 0x62, 0x61, 0x61, 0x61] && t.pidx == 3) = true := by decide +kernel

/-- V-B5: equal rotations. -/
theorem test_bwtFwdExplicit_periodic :
    nextIs (exec .bwtFwdExplicit { base with blk := bs [0x61, 0x62, 0x61, 0x62] })
      (fun t => t.colL == bs [0x62, 0x62, 0x61, 0x61] && t.pidx == 0) = true := by decide +kernel

/-- V-B13. -/
theorem test_bwtFwdSentinel_banana :
    nextIs (exec .bwtFwdSentinel { base with blk := bs [0x62, 0x61, 0x6E, 0x61, 0x6E, 0x61] })
      (fun t => t.colL == bs [0x61, 0x6E, 0x6E, 0x62, 0x00, 0x61, 0x61]) = true := by decide +kernel

/-- V-B20. -/
theorem test_bwtFwdSentinel_collision :
    nextIs (exec .bwtFwdSentinel { base with blk := bs [0x61, 0x00, 0x62] })
      (fun t => t.err && t.errInfo == 0x205 && t.stage == .drain) = true := by decide +kernel

/-- V-B23: the walk stays in a cycle. -/
theorem test_bwtInvExplicit_cycle :
    nextIs (exec .bwtInvExplicit { base with colL := bs [0x62, 0x62, 0x61, 0x61] })
      (fun t => t.blk == bs [0x61, 0x62, 0x61, 0x62]) = true := by decide +kernel

/-- V-B27: p = N. -/
theorem test_bwtInvExplicit_index_too_big :
    nextIs (exec .bwtInvExplicit { base with colL := bs [0x6E, 0x6E, 0x62, 0x61, 0x61, 0x61], pidx := 6 })
      (fun t => t.errInfo == 0xB02) = true := by decide +kernel

/-- V-B33. -/
theorem test_bwtInvSentinel_banana :
    nextIs (exec .bwtInvSentinel { base with colL := bs [0x61, 0x6E, 0x6E, 0x62, 0x00, 0x61, 0x61] })
      (fun t => t.blk == bs [0x62, 0x61, 0x6E, 0x61, 0x6E, 0x61]) = true := by decide +kernel

/-- V-B39: the walk meets the sentinel early. -/
theorem test_bwtInvSentinel_early :
    nextIs (exec .bwtInvSentinel { base with colL := bs [0x00, 0x61] }) (fun t => t.errInfo == 0xB02) = true := by
  decide +kernel

/-- V-M1, and the alphabet it leaves. -/
theorem test_mtfEnc :
    nextIs (exec .mtfEnc { base with colL := bs [0x6E, 0x6E, 0x62, 0x61, 0x61, 0x61] })
      (fun t => t.rankM == bs [0x6E, 0x00, 0x63, 0x63, 0x00, 0x00] && t.alpha.take 4 == bs [0x61, 0x62, 0x6E, 0x00])
      = true := by decide +kernel

/-- V-M8. -/
theorem test_mtfDec :
    nextIs (exec .mtfDec { base with rankM := bs [0xFF, 0xFF, 0x00, 0x01] })
      (fun t => t.colL == bs [0xFF, 0xFE, 0xFE, 0xFF]) = true := by decide +kernel

/-- V-R3. -/
theorem test_rleEnc :
    nextIs (exec .rleEnc { base with rankM := bs [3, 3, 3, 1] }) (fun t => t.pairR == bs [3, 3, 1, 1]) = true := by
  decide +kernel

/-- V-R5: adjacent pairs with equal values. -/
theorem test_rleEnc_long_run :
    nextIs (exec .rleEnc { base with rankM := List.replicate 256 7 }) (fun t => t.pairR == bs [0xFF, 7, 1, 7]) = true := by
  decide +kernel

/-- V-R9. -/
theorem test_rleDec :
    nextIs (exec .rleDec { base with pairR := bs [2, 5, 1, 6] }) (fun t => t.rankM == bs [5, 5, 6]) = true := by
  decide +kernel

/-- V-R14: the odd-length check comes first. -/
theorem test_rleDec_odd_first :
    nextIs (exec .rleDec { base with pairR := bs [0, 5, 1] }) (fun t => t.errInfo == 0x901) = true := by decide +kernel

/-- V-H1. -/
theorem test_hufEnc :
    nextIs (exec .hufEnc { base with pairR := bs [0x01, 0x6E, 0x01, 0x00, 0x02, 0x63, 0x02, 0x00] })
      (fun t =>
        t.tab == bs [0x00, 0x05, 0x00, 0x02, 0x00, 0x01, 0x02, 0x40, 0x02, 0x02, 0x80, 0x63, 0x03, 0xC0, 0x6E, 0x03, 0xE0]
          && t.pay == bs [0x06, 0x7A, 0x5A, 0x00]) = true := by decide +kernel

/-- V-H2: one symbol gets a code of one bit. -/
theorem test_hufEnc_one_symbol :
    nextIs (exec .hufEnc { base with pairR := bs [5, 5, 5] })
      (fun t => t.tab == bs [0, 1, 5, 1, 0] && t.pay == bs [5, 0]) = true := by decide +kernel

/-- V-T2. -/
theorem test_tabParse :
    nextIs (exec .tabParse { base with tab := bs [0, 2, 1, 1, 0, 2, 1, 0x80] })
      (fun t => t.codes == [(1, [false]), (2, [true])]) = true := by decide +kernel

/-- V-T17: "0" is a prefix of "01". -/
theorem test_tabParse_not_prefix_free :
    nextIs (exec .tabParse { base with tab := bs [0, 2, 1, 1, 0, 2, 2, 0x40] }) (fun t => t.errInfo == 0x804) = true := by
  decide +kernel

/-- V-D8: an incomplete but legal table. -/
theorem test_hufDec :
    nextIs (exec .hufDec { base with codes := [(1, [false]), (2, [true, false])], pay := bs [4, 0x80] })
      (fun t => t.pairR == bs [2, 1, 1]) = true := by decide +kernel

/-- V-D11: the bits end inside a code. -/
theorem test_hufDec_ends_inside_a_code :
    nextIs (exec .hufDec { base with codes := [(1, [false]), (2, [true, false])], pay := bs [7, 0x80] })
      (fun t => t.errInfo == 0x803) = true := by decide +kernel

/-! ### The stages -/

theorem test_split_takes_the_oldest :
    nextIs (exec .split { running .compress .split with inFifo := bs [1, 2], blk := bs [9] })
      (fun t => t.blk == bs [9, 1] && t.inFifo == bs [2] && t.inCount == 1 && t.stage == .split) = true := by decide +kernel

/-- V-B1 as a stage. -/
theorem test_bwt_moves_to_mtf :
    nextIs (exec .bwt { running .compress .bwt with blk := bs [0x62, 0x61] })
      (fun t => t.colL == bs [0x62, 0x61] && t.pidx == 1 && t.stage == .mtf) = true := by decide +kernel

/-- V-P2's frame: the block 41. -/
theorem test_entropy_queues_the_frame :
    nextIs (exec .entropy { running .compress .entropy with pairR := bs [1, 0x41] })
      (fun t => t.pend == bs ([0, 0, 0, 0, 0, 0, 0, 8, 0, 2, 1, 1, 0, 0x41, 1, 0x80] ++ [0, 0, 0, 2, 6, 0x40])
        && t.stage == .framed) = true := by decide +kernel

theorem test_framed_commits :
    nextIs (exec .framed { running .compress .framed with outCount := 22, blockCount := 1 })
      (fun t => t.outCommit == 22 && t.blockCount == 2 && t.boundary && t.stage == .framed) = true := by decide +kernel

theorem test_join_pushes_the_first :
    nextIs (exec .join { running .decompress .join with pend := bs [7, 8], outFifo := bs [6] })
      (fun t => t.pend == bs [8] && t.outFifo == bs [6, 7] && t.outCount == 1) = true := by decide +kernel

theorem test_join_holds_when_full :
    nextIs (exec .join { running .decompress .join with pend := bs [7], outFifo := bs [1, 2, 3, 4] })
      (fun t => t == { running .decompress .join with pend := bs [7], outFifo := bs [1, 2, 3, 4] }) = true := by
  decide +kernel

/-- P5: payloadLen 3 with two bytes of input left. -/
theorem test_unframe_truncated :
    nextIs (exec .unframe { running .decompress .unframe with
        latLen := 92, inCount := 90, blockCount := 2, field := .payLen, fbuf := bs [0, 0, 0, 3] })
      (fun t => t.errInfo == 0x701 && t.errBlock == 2 && t.stage == .drain) = true := by decide +kernel

/-- The primary index is big-endian (30_encoding.md R82). -/
theorem test_unframe_index_is_big_endian :
    nextIs (exec .unframe { running .decompress .unframe with field := .idx, fbuf := bs [0, 0, 1, 3] })
      (fun t => t.pidx == 0x103 && t.field == .tabLenCheck) = true := by decide +kernel

/-- V-T2 and V-D1 together: a stage that applies two functions. -/
theorem test_entropyInv :
    nextIs (exec .entropyInv { running .decompress .entropyInv with tab := bs [0, 1, 5, 1, 0], pay := bs [5, 0] })
      (fun t => t.pairR == bs [5, 5, 5] && t.stage == .rleInv) = true := by decide +kernel

theorem test_drain_discards :
    nextIs (exec .drain { running .decompress .drain with inFifo := bs [1] })
      (fun t => t.inFifo == [] && t.inCount == 1 && t.busy && t.outFifo == []) = true := by decide +kernel

theorem test_drain_ends_without_done :
    nextIs (exec .drain { running .decompress .drain with inCount := 4 })
      (fun t => !t.busy && !t.done && t.stage == .idle) = true := by decide +kernel

/-! ### Commands and registers -/

/-- V-C2, V-C3, V-C4. -/
theorem test_block_size_bounds :
    nextIs (exec (.regWrite 0x08 0) State.reset) (fun t => t.readReg 0x08 == 0x10000) = true ∧
    nextIs (exec (.regWrite 0x08 0x10001) State.reset) (fun t => t.readReg 0x08 == 0x10000) = true := by decide +kernel

/-- V-C6. -/
theorem test_ctrl_reserved_bits : nextIs (exec (.regWrite 0x04 0xFFFFFFFF) State.reset) (fun t => t.readReg 0x04 == 7) = true := by
  decide +kernel

/-- V-C10 to V-C14. -/
theorem test_command_values :
    statusAfter [(0x10, 0)] = 0 ∧ statusAfter [(0x10, 4)] = 8 ∧ statusAfter [(0x10, 0xFFFFFFFF)] = 8 ∧
    statusAfter [(0x10, 0x101)] = 8 ∧ statusAfter [(0x10, 3)] = 0 := by decide +kernel

/-- V-C17 to V-C20. -/
theorem test_running_command :
    statusAfter [(0x0C, 1), (0x10, 1)] = 0x101 ∧ statusAfter [(0x0C, 1), (0x10, 1), (0x10, 2)] = 0x109 ∧
    statusAfter [(0x0C, 1), (0x10, 1), (0x10, 3)] = 0x10 := by decide +kernel

/-- V-C16: an empty input ends at the first boundary step. -/
theorem test_empty_decompress :
    nextIs (step (after (exec .decompress State.reset) State.reset)) (fun t => t.statusWord == 0x1002) = true := by
  decide +kernel

/-- V-C22. -/
theorem test_w1c :
    nextIs (exec (.regWrite 0x14 4) { base with err := true, cmdErr := true, aborted := true })
      (fun t => t.statusWord == 0x18) = true := by decide +kernel

/-- V-C24, V-C26. -/
theorem test_irq :
    nextIs (exec (.regWrite 0x04 2) { base with done := true }) (fun t => t.irq && t.statusWord == 0x4002) = true ∧
    State.irq { base with ctrl := 6, cmdErr := true, aborted := true } = false := by decide +kernel

/-- V-C21. -/
theorem test_push_waits_while_idle :
    nextIs (exec (.inPush 0x41) base) (fun t => t.resp == .waits && t.inFifo == []) = true := by decide +kernel

theorem test_pop_is_oldest_first :
    nextIs (exec .outPop { base with outFifo := bs [3, 4] }) (fun t => t.resp == .byte 3 && t.outFifo == bs [4]) = true := by
  decide +kernel

/-- R188: BLOCK_SIZE is MAX_BLOCK_SIZE, the command is lost. -/
theorem test_reset_mid_command :
    nextIs (exec .reset { running .decompress .join with blockSize := 2, outFifo := bs [1] })
      (fun t => t.statusWord == 0 && t.blockSize == 8 && t.outFifo == []) = true := by decide +kernel

/-! ### Witnesses: the hypotheses of the statements, met together, at the ends of their ranges -/

/-- Two states for the hypotheses on BUSY. -/
theorem witness_IdleStartLatchesAndClears : base.busy = false := rfl
theorem witness_RefusedCommandsSetOnlyCmdErr : (running .compress .bwt).busy = true := rfl
theorem witness_AbortStopsTheEngine : (running .decompress .join).busy = true ∧ base.busy = false := ⟨rfl, rfl⟩
theorem witness_CommandWriteRunsTheDecodedCommand : 4 ≤ (4 : Word).toNat := by decide

/-- The ends of the legal block sizes, and a value on either side. -/
theorem witness_RegisterWritesStoreByTheFieldRules :
    (1 ≤ (1 : Word).toNat ∧ (1 : Word).toNat ≤ base.cfg.maxBlockSize) ∧
    (1 ≤ (8 : Word).toNat ∧ (8 : Word).toNat ≤ base.cfg.maxBlockSize) ∧
    (0 : Word).toNat = 0 ∧ base.cfg.maxBlockSize < (9 : Word).toNat := by decide

theorem witness_IllegalAccessGetsABusError :
    ¬(2 = 4 ∧ 0 % 4 = 0) ∧ ¬(4 = 4 ∧ 2 % 4 = 0) ∧ ¬(([1, 2, 3] : List Byte).length = 4 ∧ 4 % 4 = 0) ∧
    (0x3D : BitVec 6).toNat % 4 ≠ 0 := by decide

theorem witness_AddressDecodesSixLowBits : small.Legal ∧ (0x3C : BitVec 6).toNat % 4 = 0 := by decide

/-- One free place and one byte still to accept; then each reason to wait. -/
theorem witness_InPushIsAcceptedWhenReady :
    (let s := { running .compress .split with inFifo := bs [1, 2, 3], inAccepted := 3 }
     s.busy = true ∧ s.inFifo.length < s.cfg.inFifoDepth ∧ s.inAccepted.toNat < s.latLen.toNat) ∧
    (let s := { running .compress .split with inFifo := bs [1, 2, 3, 4], inAccepted := 4, latLen := 9 }
     ¬(s.busy = true ∧ s.inFifo.length < s.cfg.inFifoDepth ∧ s.inAccepted.toNat < s.latLen.toNat)) ∧
    (let s := { running .compress .split with inAccepted := 4, inCount := 4 }
     ¬(s.busy = true ∧ s.inFifo.length < s.cfg.inFifoDepth ∧ s.inAccepted.toNat < s.latLen.toNat)) ∧
    ¬(base.busy = true ∧ base.inFifo.length < base.cfg.inFifoDepth ∧ base.inAccepted.toNat < base.latLen.toNat) := by
  decide

theorem witness_OutPopTakesTheOldestByte :
    ({ base with outFifo := [7] } : State).outFifo = 7 :: [] ∧ base.outFifo = [] := ⟨rfl, rfl⟩
theorem witness_IdleEngineTakesNoStep :
    (base.EngineNext base ∧ base.busy = false) ∧
    (State.EngineNext { base with sched := [.engine, .host .pop] } { base with sched := [.host .pop] } ∧
      ({ base with sched := [.engine, .host .pop] } : State).busy = false) :=
  ⟨⟨.inl ⟨rfl, rfl⟩, rfl⟩, .inr ⟨_, rfl, rfl⟩, rfl⟩

theorem witness_SplitTakesTheBlock :
    (let s := { running .compress .split with latBs := 2, blk := bs [9], inCount := 3, inFifo := bs [1] }
     s.blk.length < s.latBs.toNat ∧ s.inCount.toNat < s.latLen.toNat ∧ s.inFifo = 1 :: []) ∧
    (let s := { running .compress .split with latBs := 2, blk := bs [9], inCount := 3 }
     s.blk.length < s.latBs.toNat ∧ s.inCount.toNat < s.latLen.toNat ∧ s.inFifo = []) ∧
    (let s := { running .compress .split with latBs := 2, blk := bs [9, 9], inCount := 3 }
     s.latBs.toNat ≤ s.blk.length) ∧
    (let s := { running .compress .split with latBs := 2, blk := bs [9], inCount := 4 }
     s.latLen.toNat ≤ s.inCount.toNat) := by decide

theorem witness_CompressStagesTransformTheBlock :
    base.mode = .explicitIndex ∧
    (let s := { running .compress .bwt with mode := .sentinel, blk := bs [1] }
     s.mode = .sentinel ∧ s.blk.count 0 = 0) ∧
    (let s := { running .compress .bwt with mode := .sentinel, blk := bs [1, 0] }
     s.mode = .sentinel ∧ 0 < s.blk.count 0) := by decide

theorem witness_FramedAndJoinPushThePendingBytes :
    (let s := { running .compress .framed with pend := [5], outFifo := bs [1, 2, 3] }
     s.pend = 5 :: [] ∧ s.outFifo.length < s.cfg.outFifoDepth) ∧
    (let s := { running .compress .framed with pend := [5], outFifo := bs [1, 2, 3, 4] }
     s.pend ≠ [] ∧ s.cfg.outFifoDepth ≤ s.outFifo.length) ∧
    (running .decompress .join).pend = [] := by decide

theorem witness_BoundaryStepEndsOrEntersABlock :
    (let s := { running .compress .framed with boundary := true, inCount := 4 }
     s.busy = true ∧ s.boundary = true ∧ s.latLen.toNat ≤ s.inCount.toNat) ∧
    (let s := { running .compress .framed with boundary := true, inCount := 3 }
     s.busy = true ∧ s.boundary = true ∧ s.inCount.toNat < s.latLen.toNat ∧ s.op = .compress) ∧
    (let s := { running .decompress .join with boundary := true, inCount := 3 }
     s.busy = true ∧ s.boundary = true ∧ s.inCount.toNat < s.latLen.toNat ∧ s.op = .decompress) := by
  decide

/-- Each of those states has an engine's turn next, in both forms. -/
theorem witness_BoundaryStepEndsOrEntersABlock_turn (s : State) :
    State.EngineNext { s with sched := [] } { s with sched := [] } ∧
    State.EngineNext { s with sched := [.engine] } { s with sched := [] } :=
  ⟨.inl ⟨rfl, rfl⟩, .inr ⟨_, rfl, rfl⟩⟩

/-- UNFRAME standing at a field. -/
def unframing (f : FrameField) : State := { running .decompress .unframe with field := f, inFifo := bs [9] }

theorem witness_UnframeReadsTheFrame_bytes :
    (∀ f ∈ [FrameField.idx, .tabLen, .payLen, .tab, .pay],
      (let s := { unframing f with need := 1 }
       0 < s.need ∧ s.inFifo = 9 :: [] ∧ s.field = f) ∧
      (let s := { unframing f with need := 1, inFifo := [] }
       0 < s.need ∧ s.inFifo = [] ∧ s.field = f)) := by decide

theorem witness_UnframeReadsTheFrame_checks :
    (∀ f ∈ [FrameField.idxCheck, .tabLenCheck, .payLenCheck],
      4 ≤ (unframing f).latLen.toNat - (unframing f).inCount.toNat ∧ (unframing f).field = f) ∧
    (∀ f ∈ [FrameField.idx, .tab, .pay], (unframing f).need = 0 ∧ (unframing f).field = f) := by decide

theorem witness_UnframeReadsTheFrame_lengths :
    (let s := { unframing .tabLen with latLen := 8710, inCount := 4, fbuf := bs [0, 0, 0x22, 0x02] }
     s.need = 0 ∧ s.field = .tabLen ∧ ofBE s.fbuf ≤ s.latLen.toNat - s.inCount.toNat ∧ ofBE s.fbuf ≤ 8706) ∧
    (let s := { unframing .payLen with inCount := 3, fbuf := bs [0, 0, 0, 1] }
     s.need = 0 ∧ s.field = .payLen ∧ ofBE s.fbuf ≤ s.latLen.toNat - s.inCount.toNat ∧ 1 ≤ ofBE s.fbuf) := by decide

theorem witness_UnframeRaisesOnABadLength :
    (∀ f ∈ [FrameField.idxCheck, .tabLenCheck, .payLenCheck],
      let s := { unframing f with inCount := 1 }
      s.latLen.toNat - s.inCount.toNat < 4 ∧ s.field = f) ∧
    (let s := { unframing .tabLen with fbuf := bs [0, 0, 0, 5] }
     s.need = 0 ∧ s.field = .tabLen ∧ s.latLen.toNat - s.inCount.toNat < ofBE s.fbuf) ∧
    (let s := { unframing .tabLen with latLen := 9000, fbuf := bs [0, 0, 0x22, 0x03] }
     s.need = 0 ∧ s.field = .tabLen ∧ ofBE s.fbuf ≤ s.latLen.toNat - s.inCount.toNat ∧ 8706 < ofBE s.fbuf) ∧
    (let s := { unframing .payLen with fbuf := bs [0, 0, 0, 5] }
     s.need = 0 ∧ s.field = .payLen ∧ s.latLen.toNat - s.inCount.toNat < ofBE s.fbuf) ∧
    (let s := { unframing .payLen with fbuf := bs [0, 0, 0, 0] }
     s.need = 0 ∧ s.field = .payLen ∧ ofBE s.fbuf = 0) := by decide

theorem witness_DecompressStagesInvertTheBlock_passing :
    tabParse (bs [0, 1, 5, 1, 0]) = .ok [(5, [false])] ∧
    hufDec [(5, [false])] (capR small .explicitIndex) (bs [5, 0]) = .ok (bs [5, 5, 5]) ∧
    rleDec (capL small .explicitIndex) (bs [8, 5]) = .ok (bs [5, 5, 5, 5, 5, 5, 5, 5]) ∧
    bwtInvExplicit (bs [0x41]) (0 : Word).toNat = .ok (bs [0x41]) ∧ bwtInvSentinel (bs [0x41, 0]) = .ok (bs [0x41]) :=
  ⟨by decide +kernel, by decide +kernel, by decide +kernel, by decide +kernel, by decide +kernel⟩

theorem witness_DecompressStagesInvertTheBlock_failing :
    tabParse [] = .error .malformedCodeTable ∧
    hufDec [(5, [false])] (capR small .explicitIndex) (bs [8, 0]) = .error .invalidCode ∧
    rleDec (capL small .explicitIndex) (bs [9, 5]) = .error .corruptBlock ∧
    bwtInvExplicit (bs [0x41]) (1 : Word).toNat = .error .corruptBlock ∧ bwtInvSentinel (bs [0x41]) = .error .corruptBlock :=
  ⟨by decide +kernel, by decide +kernel, by decide +kernel, by decide +kernel, by decide +kernel⟩

theorem witness_DrainDiscardsTheRestOfTheInput :
    (let s := { running .decompress .drain with inCount := 3, inFifo := [7] }
     s.inCount.toNat < s.latLen.toNat ∧ s.inFifo = 7 :: []) ∧
    (let s := { running .decompress .drain with inCount := 3 }
     s.inCount.toNat < s.latLen.toNat ∧ s.inFifo = []) ∧
    (let s := { running .decompress .drain with inCount := 4 }
     s.latLen.toNat ≤ s.inCount.toNat) := by decide

theorem witness_AFailedStageEntersTheError :
    0 < (bs [1, 0]).count 0 ∧ tabParse (bs [0]) = .error .malformedCodeTable ∧
    hufDec [(5, [false])] (capR { small with maxBlockSize := 1 } .explicitIndex) (bs [5, 0]) = .error .corruptBlock ∧
    (tabParse (bs [0, 1, 5, 1, 0]) = .ok [(5, [false])] ∧
      hufDec [(5, [false])] (capR small .explicitIndex) (bs [8, 0]) = .error .invalidCode) ∧
    rleDec (capL small .explicitIndex) (bs [1]) = .error .truncatedInput ∧
    bwtInvExplicit [] 0 = .error .corruptBlock ∧ bwtInvSentinel (bs [0, 0x61]) = .error .corruptBlock :=
  ⟨by decide, by decide +kernel, by decide +kernel, by decide +kernel, by decide +kernel, by decide +kernel,
    by decide +kernel⟩

/-- The one-symbol code map of V-D1, and the incomplete one of V-D8. -/
def oneCode : Codes := [(5, [false])]
def twoCodes : Codes := [(1, [false]), (2, [true, false])]

theorem oneCode_legal : LegalCodes oneCode := by unfold LegalCodes; decide
theorem twoCodes_legal : LegalCodes twoCodes := by unfold LegalCodes; decide

/-- A payload of one packed byte with pad 7: one bit, and seven fill bits. -/
theorem payloadOf_pad7 (b : Byte) (x : Bool) (fill : Bits) (h : fill.length = 7) (hb : unpackBits [b] = [x] ++ fill) :
    PayloadOf [7, b] [x] fill := ⟨by omega, [b], by rw [h]; rfl, hb⟩

/-- Each condition of HufFails: V-D4, a symbol too many, V-D6, V-D11, a 1 among the fill bits. -/
theorem witness_AFailedStageEntersTheError_payloads :
    HufFails oneCode 2 [8, 0] 0x803 ∧ HufFails oneCode 0 [7, 0] 0x802 ∧ HufFails oneCode 2 [7, 0x80] 0x803 ∧
    HufFails twoCodes 2 [7, 0x80] 0x803 ∧ HufFails oneCode 2 [7, 0x01] 0x803 := by
  refine ⟨.pad ?_, .capacity [false] (List.replicate 7 false) [false] [5] (payloadOf_pad7 _ _ _ (by decide) (by decide))
      ⟨[[false]], .cons (by decide) .nil, rfl⟩ (by decide) rfl,
    .leaves [true] (List.replicate 7 false) [] [true] [] (payloadOf_pad7 _ _ _ (by decide) (by decide))
      ⟨[], .nil, rfl⟩ (by decide) (by decide) (by decide) (by decide),
    .ends [true] (List.replicate 7 false) [] [true] [] (2, [true, false]) (payloadOf_pad7 _ _ _ (by decide) (by decide))
      ⟨[], .nil, rfl⟩ (by decide) rfl (by decide) (by decide) (by decide) (by decide),
    .fill [false] (List.replicate 6 false ++ [true]) [5] (payloadOf_pad7 _ _ _ (by decide) (by decide))
      ⟨[[false]], .cons (by decide) .nil, rfl⟩ (by decide) (by decide)⟩
  rintro ⟨w, fill, h, packed, hp, -⟩
  have := congrArg BitVec.toNat (List.head_eq_of_cons_eq hp)
  simp at this
  omega

/-- A table that no legal map has (V-T7), one that one has, and the ends of the ranges of R115, R103, R104. -/
theorem witness_AFailedStageEntersTheError_data :
    (¬∃ c, LegalCodes c ∧ (bs [0]) = tabSer c) ∧ (LegalCodes oneCode ∧ bs [0, 1, 5, 1, 0] = tabSer oneCode) ∧
    (bs [2, 5, 1]).length % 2 = 1 ∧ (bs [0, 5] = pairStream [(0, 5)] ∧ ∃ p ∈ [((0 : Byte), (5 : Byte))], p.1 = 0) ∧
    (bs [9, 5] = pairStream [(9, 5)] ∧ small.maxBlockSize < ([((9 : Byte), (5 : Byte))].map fun p => p.1.toNat).sum) ∧
    (bs [0x41]).length ≤ (1 : Word).toNat ∧ (bs [0x61, 0, 0]).count 0 ≠ 1 ∧
    (0 + 1 < (bs [0, 0x61]).length ∧ (bs [0, 0x61])[(lf (bs [0, 0x61]))^[0 + 1] ((bs [0, 0x61]).idxOf 0)]? = some 0) := by
  refine ⟨?_, ⟨oneCode_legal, by decide⟩, by decide⟩
  rintro ⟨c, -, h⟩
  have := congrArg List.length h
  simp [bs, tabSer, be16] at this

/-- A COMPRESS whose block collides with the sentinel, in a state that meets the invariant. -/
def colliding : State :=
  { running .compress .bwt with mode := .sentinel, blk := [0], inAccepted := 1, inCount := 1 }

theorem colliding_inv : colliding.Inv :=
  ⟨by decide, by decide, by decide, ⟨by decide, by decide, by decide, by decide, by decide, by decide, identityAlphabet_ok⟩,
    by decide⟩

theorem witness_OnlyTheTabledStagesRaise :
    colliding.errored = false ∧ ∃ t, exec .bwt colliding = .next t ∧ t.errored = true := ⟨rfl, _, rfl, rfl⟩

theorem witness_ErrorEntryIsPreciseAtBlocks :
    colliding.Inv ∧ colliding.errored = false ∧ ∃ t, step colliding = .next t ∧ t.errored = true :=
  ⟨colliding_inv, rfl, _, rfl, rfl⟩

theorem witness_ForwardStageFunctionsWriteTheirResults : (bs [1, 2]).count 0 = 0 := by decide

theorem witness_InverseStageFunctionsWriteTheirResults :
    (1 ≤ (bs [0x41]).length ∧ (0 : Word).toNat < (bs [0x41]).length) ∧
    ((bs [0x41, 0]).count 0 = 1 ∧
      (walkMoveEmit (bs [0x41, 0]) ((bs [0x41, 0]).length - 1) ((bs [0x41, 0]).idxOf 0)).count 0 = 0) ∧
    rleDec (capL small .sentinel) (bs [9, 5]) = .ok (bs [5, 5, 5, 5, 5, 5, 5, 5, 5]) ∧ tabParse (bs [0, 0]) = .ok [] ∧
    hufDec [] (capR small .sentinel) (bs [0]) = .ok [] := ⟨by decide, by decide, by decide +kernel, by decide +kernel, by decide +kernel⟩

/-- V-D1, V-D8's map, a stream of exactly the capacity, the last legal index, and a column the sentinel walk accepts. -/
theorem witness_InverseStageFunctionsWriteTheirResults_data :
    LegalCodes twoCodes ∧ (LegalCodes oneCode ∧ HufDecodes oneCode 3 (bs [5, 0]) (bs [5, 5, 5])) ∧
    (bs [8, 5] = pairStream [(8, 5)] ∧ (∀ p ∈ [((8 : Byte), (5 : Byte))], p.1 ≠ 0) ∧
      ([((8 : Byte), (5 : Byte))].map fun p => p.1.toNat).sum ≤ small.maxBlockSize) ∧
    (1 : Word).toNat < (bs [0x61, 0x62]).length ∧
    ((bs [0x41, 0]).count 0 = 1 ∧ ∀ k, k + 1 < (bs [0x41, 0]).length →
      (bs [0x41, 0])[(lf (bs [0x41, 0]))^[k + 1] ((bs [0x41, 0]).idxOf 0)]? ≠ some 0) := by
  refine ⟨twoCodes_legal, ⟨oneCode_legal, List.replicate 3 false, List.replicate 5 false,
    ⟨by decide, [0], by decide, by decide⟩, ⟨[[false], [false], [false]], ?_, rfl⟩, by decide, by decide⟩,
    ⟨by decide, by simp, by decide⟩, by decide, by decide, ?_⟩
  · exact .cons (by decide) (.cons (by decide) (.cons (by decide) .nil))
  · intro k hk
    obtain rfl : k = 0 := by simp [bs] at hk; omega
    decide

theorem witness_StageRunsItsFunctionThenMoves :
    ∀ S ∈ [Stage.mtf, .rle, .rleInv, .mtfInv, .bwt, .bwtInv, .entropyInv], (running .compress S).stage = S := by decide

/-- ENTROPY_⟨by decide, by decide, by decide, ⟨by decide, by decide, by decide, by decide, by decide, by decide, identityAlphabet_ok⟩,
    by decide⟩ with a table that does not parse, and with one that does. -/
theorem witness_StageRunsItsFunctionThenMoves_entropyInv :
    nextIs (exec .tabParse (running .decompress .entropyInv)) (fun t => t.stage == .drain) = true ∧
    nextIs (exec .tabParse { running .decompress .entropyInv with tab := [0, 0] }) (fun t => t.stage != .drain) = true := by
  decide +kernel

theorem witness_StageFunctionsTouchOnlyBuffers :
    ∃ t, exec .rleEnc (running .compress .rle) = .next t ∧ (running .compress .rle).errored = false ∧ t.errored = false :=
  ⟨_, rfl, rfl, rfl⟩

theorem witness_PrimaryIndexIsTheUnrotatedRow :
    (bs [0] ≠ [] ∧ (bs [0]).length < 2 ^ 32 ∧ (rotationOrder (bs [0]))[0]? = some 0) ∧
    (bwtFwdSentinel [] = .ok [0] ∧ (rotationOrder ([] ++ [0]))[0]? = some 0) := by decide +kernel
/-- V-B1, the order's last row, and the first byte that differs decides, unsigned. -/
theorem witness_RotationIndexIsSorted :
    (bs [1, 0x80]).length = (bs [1, 0x7F]).length ∧ lexLt (bs [1, 0x7F]) (bs [1, 0x80]) = true ∧
    (rotationOrder (bs [0x62, 0x61, 0x6E, 0x61, 0x6E, 0x61]))[5]? = some 2 := by decide +kernel
theorem witness_MtfRoundTripsInSynchrony : (mtfEnc []).2[255]? = some 0xFF := by decide +kernel
theorem witness_SentinelColumnHasOneSentinel : bwtFwdSentinel (bs [0x41]) = .ok (bs [0x41, 0]) ∧ bs [0x41] ≠ [] :=
  ⟨by decide +kernel, by decide⟩
theorem witness_ExplicitBwtRoundTrips : bs [0x61, 0x61] ≠ [] ∧ (bs [0x61, 0x61]).length ≤ 2 ^ 24 := by decide
theorem witness_SentinelBwtRoundTrips : (bs [1, 255]).count 0 = 0 := by decide
theorem witness_RleRoundTrips : (bs [3, 3]).length ≤ 2 := by decide
theorem witness_RleStreamIsBounded :
    bs [3] ≠ [] ∧ (rleEnc (bs [3]))[2 * 0]? = some 1 ∧
    (let R := rleEnc (List.replicate 256 7)
     R[2 * 0]? = some 255 ∧ R[2 * 0 + 1]? = some 7 ∧ R[2 * 0 + 2]? = some 1 ∧ R[2 * 0 + 3]? = some 7) := by decide +kernel
theorem witness_HuffmanCodesArePrefixFree :
    symbols (bs [5, 5]) = bs [5] ∧ 2 ≤ (symbols (bs [1, 0x41])).length := by decide +kernel
/-- R119: the lighter leaf is extracted first and becomes the left child. -/
theorem test_mergesTo_two_leaves :
    MergesTo 2 [⟨2, 0, .leaf 0⟩, ⟨1, 1, .leaf 1⟩] (.node (.leaf 1) (.leaf 0)) :=
  .merge 2 _ [] ⟨1, 1, .leaf 1⟩ ⟨2, 0, .leaf 0⟩ _ (.swap _ _ _) (by simp [QItem.Before]) (by simp) (.root 3 _)
theorem witness_HuffmanRoundTrips_bits :
    9 < 8 * (packBits (List.replicate 9 true ++ [true])).length ∧ (bs [0, 0x40])[9 / 8]? = some 0x40 := by decide
theorem witness_HuffmanRoundTrips : (bs [5, 5, 5]).length ≤ 3 := by decide
theorem witness_FrameFieldsReadBack :
    (List.replicate 8706 (0 : Byte)).length ≤ 8706 ∧ 1 ≤ (bs [0]).length ∧ (bs [0]).length < 2 ^ 32 :=
  ⟨Nat.le_of_eq List.length_replicate, by decide, by decide⟩

/-- The pipeline statements: the smallest and the largest block size, an input with and one without 0x00. -/
theorem witness_ExplicitPipelineRoundTrips :
    small.Legal ∧ (1 ≤ 1 ∧ 1 ≤ small.maxBlockSize) ∧ (1 ≤ 8 ∧ 8 ≤ small.maxBlockSize) := by decide
theorem witness_SentinelPipelineRoundTripsOrCollides :
    small.Legal ∧ 1 ≤ 8 ∧ 8 ≤ small.maxBlockSize ∧ (bs [1]).count 0 = 0 ∧ 0 < (bs [1, 0]).count 0 := by decide
theorem witness_TruncatedStreamIsDetected :
    small.Legal ∧ 1 ≤ 8 ∧ 8 ≤ small.maxBlockSize ∧ bs [0x41] ≠ [] ∧
    (compressStream .explicitIndex 8 (bs [0x41])).err = none := by decide +kernel

/-- One byte of input, with room for its frame of 22 bytes in the output. -/
def oneByte : State := { State.reset with inLen := 1 }

theorem oneByte_inv : oneByte.Inv :=
  ⟨by decide, by decide, by decide, ⟨by decide, by decide, by decide, by decide, by decide, by decide, identityAlphabet_ok⟩,
    by decide⟩

theorem witness_CompressRunComputesTheStream :
    oneByte.Inv ∧ oneByte.busy = false ∧ (bs [0x41]).length = oneByte.inLen.toNat ∧
    (bs [0x41]).length ≤ oneByte.cfg.inFifoDepth ∧
    oneByte.outFifo.length + (compressStream oneByte.bwtMode oneByte.blockSize.toNat (bs [0x41])).output.length
      ≤ oneByte.cfg.outFifoDepth :=
  ⟨oneByte_inv, rfl, rfl, by decide, by decide +kernel⟩

theorem witness_DecompressRunComputesTheStream :
    oneByte.Inv ∧ oneByte.busy = false ∧ (bs [0x41]).length = oneByte.inLen.toNat ∧
    (bs [0x41]).length ≤ oneByte.cfg.inFifoDepth ∧
    oneByte.outFifo.length + (decompressStream oneByte.cfg oneByte.bwtMode (bs [0x41])).output.length
      ≤ oneByte.cfg.outFifoDepth :=
  ⟨oneByte_inv, rfl, rfl, by decide, by decide +kernel⟩

theorem witness_DecodeInvertsEncode :
    wellFormed (.reservedCmd 4) = true ∧ wellFormed (.regWrite 0x3C 0xFFFFFFFF) = true ∧ wellFormed .hufDec = true := by
  decide
theorem witness_AcceptedWordsHaveOneInstruction : decode (.stageOp 0x1A false) = .ok .mtfDec := rfl
theorem witness_AStepRunsTheDecodedInstruction :
    decode (.host (.read 0x40 4)) = .ok (.regRead 0) ∧ (running .compress .bwt).busy = true ∧
    (running .compress .bwt).boundary = false ∧ decode (.stage (running .compress .bwt).stage.code) = .ok .bwt :=
  ⟨rfl, rfl, rfl, rfl⟩
theorem witness_ResetMeetsTheInvariant :
    small.Legal ∧ Config.Legal { small with maxBlockSize := 2 ^ 24, inFifoDepth := 1, outFifoDepth := 1 } := by decide

theorem witness_EveryStepKeepsTheInvariant : colliding.Inv ∧ ∃ t, step colliding = .next t :=
  ⟨colliding_inv, _, rfl⟩
theorem witness_EveryStepKeepsTheBuffersFit : colliding.Inv ∧ colliding.BuffersFit ∧ ∃ t, step colliding = .next t :=
  ⟨colliding_inv, by decide, _, rfl⟩
theorem witness_EveryStepKeepsTheBuffersFit_codes :
    LegalCodes { colliding with codes := oneCode }.codes ∧ ∃ t, step { colliding with codes := oneCode } = .next t :=
  ⟨oneCode_legal, { colliding with codes := oneCode }.raise .sentinelCollision .bwt, by rfl⟩

/-- Two states that differ in the column, which SPLIT does not read. -/
theorem witness_DeadBuffersAreUnobservable :
    ({ running .compress .split with colL := [1] } : State).live = (running .compress .split).live ∧
    ({ running .compress .split with colL := [1] } : State) ≠ running .compress .split := ⟨rfl, by decide +kernel⟩
theorem witness_HostConfigurationDoesNotReachTheRunningCommand :
    (running .compress .split).EngineNext (running .compress .split) ∧
    State.EngineNext { running .compress .split with sched := [.engine] } (running .compress .split) ∧
    (∃ t, step (running .compress .split) = .next t) ∧
    ∃ t, step { running .compress .split with sched := [.engine] } = .next t :=
  ⟨.inl ⟨rfl, rfl⟩, .inr ⟨_, rfl, rfl⟩, ⟨_, rfl⟩, _, rfl⟩

theorem witness_CmdErrHasItsSettersAndClearers :
    (∃ t, exec (.regWrite 0x14 8) { base with cmdErr := true } = .next t ∧ t.cmdErr = false) ∧
    (∃ t, exec (.regWrite 0x10 1) (running .compress .bwt) = .next t ∧ t.cmdErr = true) :=
  ⟨⟨_, rfl, rfl⟩, ⟨_, rfl, rfl⟩⟩
theorem witness_ErrIsNeverSilentlyCleared :
    (∃ t, exec .compress { base with err := true } = .next t ∧ t.err = false) ∧
    (∃ t, exec .bwt colliding = .next t ∧ colliding.err = false ∧ t.err = true ∧ t.errored = true) :=
  ⟨⟨_, rfl, rfl⟩, ⟨_, rfl, rfl, rfl, rfl⟩⟩
theorem witness_FifosKeepTheirOrder : ∃ t, exec .outPop { base with outFifo := [7] } = .next t := ⟨_, rfl⟩

theorem running_split_inv : (running .compress .split).Inv :=
  ⟨by decide, by decide, by decide, ⟨by decide, by decide, by decide, by decide, by decide, by decide, identityAlphabet_ok⟩,
    by decide⟩

theorem witness_CountersGrowWithinACommand :
    (running .compress .split).Inv ∧ ∃ t, step (running .compress .split) = .next t ∧
      (running .compress .split).busy = true ∧ t.busy = true :=
  ⟨running_split_inv, _, rfl, rfl, rfl⟩

/-- The last step of a command, at the boundary with no input left. -/
def ending : State :=
  { running .compress .framed with boundary := true, inCount := 4, inAccepted := 4 }

theorem ending_inv : ending.Inv :=
  ⟨by decide, by decide, by decide, ⟨by decide, by decide, by decide, by decide, by decide, by decide, identityAlphabet_ok⟩,
    by decide⟩

theorem witness_ACommandEndsInOneWay :
    ending.Inv ∧ ending.busy = true ∧ ∃ t, step ending = .next t ∧ t.busy = false :=
  ⟨ending_inv, rfl, _, rfl, rfl⟩

end Sys2Proof.Tests
end

section
/-! PROOF. The byte order and the rotation index (00_scope.md R18; 40_bwt.md R96). The order of the keys is carried over
to the library's lexicographic order on sequences of numbers, which gives that it is total and transitive; the sort by
keys is then a sort of the start indices themselves. -/

namespace Sys2Proof.Machine

/-! ### The byte order -/

/-- The first byte decides, and on a tie the rest (00_scope.md R18). -/
theorem lexLt_cons (x y : Byte) (a b : List Byte) :
    lexLt (x :: a) (y :: b) = true ↔ x.toNat < y.toNat ∨ x = y ∧ lexLt a b = true := by
  by_cases h : x = y <;> simp [lexLt, h]

/-- The words of 00_scope.md R18: up to index i the sequences agree, and at i the first has the smaller byte. -/
def SmallerAtFirstDifference (a b : List Byte) : Prop :=
  ∃ (i : Nat) (x y : Byte), a.take i = b.take i ∧ a[i]? = some x ∧ b[i]? = some y ∧ x.toNat < y.toNat

theorem not_smallerAtFirstDifference_nil (b : List Byte) : ¬ SmallerAtFirstDifference [] b := by
  rintro ⟨i, x, y, -, hx, -⟩
  simp at hx

/-- The place of the first difference is the front, or it is in the rests and the first bytes agree. -/
theorem smallerAtFirstDifference_cons (x y : Byte) (a b : List Byte) :
    SmallerAtFirstDifference (x :: a) (y :: b) ↔
      x.toNat < y.toNat ∨ x = y ∧ SmallerAtFirstDifference a b := by
  constructor
  · rintro ⟨i, u, v, htake, hu, hv, huv⟩
    cases i with
    | zero =>
      obtain rfl : x = u := by simpa using hu
      obtain rfl : y = v := by simpa using hv
      exact .inl huv
    | succ i =>
      obtain ⟨hxy, hrest⟩ : x = y ∧ a.take i = b.take i := by simpa using htake
      exact .inr ⟨hxy, i, u, v, hrest, by simpa using hu, by simpa using hv, huv⟩
  · rintro (h | ⟨rfl, i, u, v, htake, hu, hv, huv⟩)
    · exact ⟨0, x, y, rfl, rfl, rfl, h⟩
    · exact ⟨i + 1, u, v, by simpa using htake, by simpa using hu, by simpa using hv, huv⟩

/-- On sequences of equal length the model's order is the order of 00_scope.md R18. -/
theorem lexLt_iff_smallerAtFirstDifference (a b : List Byte) (hlen : a.length = b.length) :
    lexLt a b = true ↔ SmallerAtFirstDifference a b := by
  induction a generalizing b with
  | nil =>
    obtain rfl : b = [] := List.length_eq_zero_iff.mp hlen.symm
    simp [lexLt, not_smallerAtFirstDifference_nil]
  | cons x a ih =>
    cases b with
    | nil => simp at hlen
    | cons y b => rw [lexLt_cons, smallerAtFirstDifference_cons, ih b (by simpa using hlen)]

/-- The byte order is the library's lexicographic order of the bytes' values. -/
theorem lexLt_iff_map_toNat_lt (a b : List Byte) :
    lexLt a b = true ↔ a.map BitVec.toNat < b.map BitVec.toNat := by
  induction a generalizing b with
  | nil => cases b <;> simp [lexLt]
  | cons x a ih =>
    cases b with
    | nil => simp [lexLt]
    | cons y b => simp [lexLt_cons, ih, List.cons_lt_cons_iff, BitVec.toNat_inj]

/-! ### The order of the keys -/

/-- A key with the values of its bytes, under the library's order of pairs: first components, then second. -/
def keyValue (p : List Byte × Nat) : List Nat ×ₗ Nat := toLex (p.1.map BitVec.toNat, p.2)

theorem map_toNat_injective : Function.Injective (List.map (BitVec.toNat (w := 8))) :=
  List.map_injective_iff.mpr fun _ _ => BitVec.eq_of_toNat_eq

theorem keyLe_iff_keyValue_le (p q : List Byte × Nat) : keyLe p q = true ↔ keyValue p ≤ keyValue q := by
  rw [keyValue, keyValue, Prod.Lex.toLex_le_toLex]
  by_cases h : p.1 = q.1
  · simp [keyLe, h]
  · simp [keyLe, h, lexLt_iff_map_toNat_lt, map_toNat_injective.eq_iff]

/-! ### The rotation index -/

/-- Start index a stands no later than b in the rotation index: its key is not the greater. -/
abbrev RotLe (t : List Byte) (a b : Nat) : Prop := keyLe (rot t a, a) (rot t b, b) = true

theorem rotLe_total (t : List Byte) : Std.Total (RotLe t) where
  total a b := by simpa only [keyLe_iff_keyValue_le] using le_total _ _

theorem rotLe_trans (t : List Byte) : IsTrans Nat (RotLe t) where
  trans a b c := by simpa only [keyLe_iff_keyValue_le] using le_trans

/-- Sorting the keys and keeping their start indices is sorting the start indices. -/
theorem rotationOrder_eq_insertionSort (t : List Byte) :
    rotationOrder t = (List.range t.length).insertionSort (RotLe t) := by
  have hkeys := List.map_insertionSort (RotLe t) (fun p q => keyLe p q = true) (fun s => (rot t s, s))
    (List.range t.length) fun _ _ _ _ => Iff.rfl
  rw [rotationOrder, ← hkeys, List.map_map]
  exact List.map_id _

theorem rotationOrder_perm (t : List Byte) : (rotationOrder t).Perm (List.range t.length) := by
  rw [rotationOrder_eq_insertionSort]
  exact List.perm_insertionSort _ _

theorem rotationOrder_nodup (t : List Byte) : (rotationOrder t).Nodup :=
  (rotationOrder_perm t).nodup_iff.mpr List.nodup_range

theorem rotationOrder_pairwise_rotLe (t : List Byte) : (rotationOrder t).Pairwise (RotLe t) := by
  have := rotLe_total t
  have := rotLe_trans t
  rw [rotationOrder_eq_insertionSort]
  exact List.pairwise_insertionSort _ _

/-- Of two start indices the one with the smaller key is before the other strictly (40_bwt.md R96). -/
theorem rot_lt_of_rotLe {t : List Byte} {a b : Nat} (hle : RotLe t a b) (hne : a ≠ b) :
    (rot t a = rot t b ∧ a < b) ∨ (rot t a ≠ rot t b ∧ lexLt (rot t a) (rot t b) = true) := by
  by_cases h : rot t a = rot t b
  · have : a ≤ b := by simpa [RotLe, keyLe, h] using hle
    exact .inl ⟨h, by omega⟩
  · exact .inr ⟨h, by simpa [RotLe, keyLe, h] using hle⟩

/-- Settles O30: the byte order by induction on the sequences; the rotation index is the start indices sorted by a total
and transitive order, and strictly, because no start index occurs twice. -/
theorem rotationIndexIsSorted : Obligations.RotationIndexIsSorted :=
  ⟨lexLt_iff_smallerAtFirstDifference, fun t =>
    ⟨fun _ => rfl, rotationOrder_perm t,
      (rotationOrder_pairwise_rotLe t).imp₂ (fun _ _ => rot_lt_of_rotLe) (rotationOrder_nodup t)⟩⟩

end Sys2Proof.Machine
end

section
/-! PROOF. The address an access decodes to (20_memory.md R57, R61). -/

namespace Sys2Proof.Machine

theorem offsetOf_eq_of_mod {a b : Nat} (h : a % 64 = b % 64) : offsetOf a = offsetOf b :=
  BitVec.eq_of_toNat_eq (by simpa [offsetOf] using h)

theorem legalAccess_congr {a b : Nat} (h : a % 64 = b % 64) (n : Nat) : legalAccess a n = legalAccess b n := by
  have : a % 4 = b % 4 := by omega
  simp [legalAccess, this]

/-- Two addresses with the same six low bits decode to the same read (20_memory.md R57). -/
theorem decode_read_congr {a b : Nat} (h : a % 64 = b % 64) (size : Nat) :
    decode (.host (.read a size)) = decode (.host (.read b size)) := by
  simp only [decode, decodeHost, offsetOf_eq_of_mod h, legalAccess_congr h]

theorem decode_write_congr {a b : Nat} (h : a % 64 = b % 64) (lanes : List Byte) :
    decode (.host (.write a lanes)) = decode (.host (.write b lanes)) := by
  simp only [decode, decodeHost, offsetOf_eq_of_mod h, legalAccess_congr h]

theorem offsetOf_toNat (off : BitVec 6) : offsetOf off.toNat = off :=
  BitVec.eq_of_toNat_eq (by simp [offsetOf])

/-- The lanes of a word hold the word (20_memory.md R61). -/
theorem wordOfLanes_lanesOfWord (v : Word) : wordOfLanes (lanesOfWord v) = v := by
  rw [lanesOfWord, wordOfLanes, BitVec.extractLsb'_append_extractLsb'_eq_extractLsb' (by rfl),
    BitVec.extractLsb'_append_extractLsb'_eq_extractLsb' (by rfl),
    BitVec.extractLsb'_append_extractLsb'_eq_extractLsb' (by rfl)]
  exact BitVec.extractLsb'_eq_self

/-- An aligned offset, as an address of its own, is read as the offset. -/
theorem decode_read_offset (off : BitVec 6) (h : off.toNat % 4 = 0) :
    decode (.host (.read off.toNat 4)) = .ok (.regRead off) := by
  simp [decode, decodeHost, legalAccess, h, offsetOf_toNat]

theorem decode_write_offset (off : BitVec 6) (v : Word) (h : off.toNat % 4 = 0) :
    decode (.host (.write off.toNat (lanesOfWord v))) = .ok (.regWrite off v) := by
  have hlen : (lanesOfWord v).length = 4 := rfl
  simp [decode, decodeHost, legalAccess, h, hlen, offsetOf_toNat, wordOfLanes_lanesOfWord]

/-- Settles O10: an access depends on its address through the six low bits alone, and a 64-byte aligned base adds
nothing to them. -/
theorem addressDecodesSixLowBits : Obligations.AddressDecodesSixLowBits := by
  refine ⟨fun addr size => decode_read_congr (by simp) size,
    fun addr lanes => decode_write_congr (by simp) lanes, fun c off v hc hoff => ?_⟩
  obtain ⟨-, -, -, -, hbase⟩ := hc
  have hmod : (c.regBase + off.toNat) % 64 = off.toNat % 64 := by omega
  exact ⟨(decode_read_congr hmod 4).trans (decode_read_offset off hoff),
    (decode_write_congr hmod _).trans (decode_write_offset off v hoff)⟩

end Sys2Proof.Machine
end

section
/-! PROOF. Bit packing (20_memory.md R60; 43_huffman.md R122). Both directions are said bit by bit; that unpacking
inverts packing follows place by place. -/

namespace Sys2Proof.Machine

/-- The byte as the number its bits are, bit i from the bit string's place 7 − i. -/
theorem byteOfBits_eq_ofBits (w : Bits) :
    byteOfBits w = BitVec.ofNat 8 (Nat.ofBits fun i : Fin 8 => w.getD (7 - i) false) := rfl

/-- Bit j of the string stands in bit 7 − j of the byte (20_memory.md R60). -/
theorem getLsbD_byteOfBits (w : Bits) {j : Nat} (hj : j < 8) :
    (byteOfBits w).getLsbD (7 - j) = w.getD j false := by
  rw [byteOfBits_eq_ofBits, BitVec.getLsbD_ofNat, Nat.testBit_ofBits_lt _ _ (by omega)]
  have : 7 - (7 - j) = j := by omega
  simp [this, show 7 - j < 8 by omega]

theorem length_packBits (w : Bits) : (packBits w).length = (w.length + 7) / 8 := by
  simp [packBits]

theorem length_byteBits (b : Byte) : (byteBits b).length = 8 := by simp [byteBits]

/-- Bit k of the string stands in bit `7 − (k mod 8)` of byte k / 8 (20_memory.md R60). -/
theorem getElem?_packBits (w : Bits) {k : Nat} (hk : k < 8 * (packBits w).length) :
    ∃ b : Byte, (packBits w)[k / 8]? = some b ∧ b.getLsbD (7 - k % 8) = w.getD k false := by
  have hbyte : k / 8 < (w.length + 7) / 8 := by rw [length_packBits] at hk; omega
  have hplace : 8 * (k / 8) + k % 8 = k := Nat.div_add_mod k 8
  have hbit : k % 8 < 8 := by omega
  refine ⟨_, by simp only [packBits, List.getElem?_map, List.getElem?_range hbyte]; rfl, ?_⟩
  rw [getLsbD_byteOfBits _ hbit]
  simp [List.getElem?_take_of_lt hbit, hplace]

theorem length_unpackBits (s : List Byte) : (unpackBits s).length = 8 * s.length := by
  simp [unpackBits, List.length_flatMap, length_byteBits, Nat.mul_comm]

theorem unpackBits_cons (b : Byte) (s : List Byte) : unpackBits (b :: s) = byteBits b ++ unpackBits s := rfl

theorem getElem?_unpackBits (s : List Byte) (k : Nat) (b : Byte) (hb : s[k / 8]? = some b) :
    (unpackBits s)[k]? = some (b.getLsbD (7 - k % 8)) := by
  induction s generalizing k with
  | nil => simp at hb
  | cons a s ih =>
    rw [unpackBits_cons]
    by_cases hk : k < 8
    · obtain rfl : a = b := by simpa [Nat.div_eq_of_lt hk] using hb
      rw [List.getElem?_append_left (by rwa [length_byteBits])]
      simp [byteBits, hk, Nat.mod_eq_of_lt hk]
    · obtain ⟨j, rfl⟩ : ∃ j, k = j + 8 := ⟨k - 8, by omega⟩
      rw [List.getElem?_append_right (by rw [length_byteBits]; omega), length_byteBits]
      simpa using ih j (by simpa using hb)

theorem eight_mul_length_packBits (w : Bits) : 8 * (packBits w).length = w.length + padLength w := by
  rw [length_packBits, padLength]; omega

theorem padLength_le (w : Bits) : padLength w ≤ 7 := by rw [padLength]; omega

theorem getD_append_replicate_false (w : Bits) (n k : Nat) :
    (w ++ List.replicate n false).getD k false = w.getD k false := by
  by_cases hk : k < w.length
  · exact List.getD_append _ _ _ _ hk
  · rw [List.getD_append_right _ _ _ _ (not_lt.mp hk), List.getD_eq_default _ _ (not_lt.mp hk)]
    simp

/-- Unpacking gives the packed bits back, with the zero fill after them. -/
theorem unpackBits_packBits (w : Bits) :
    unpackBits (packBits w) = w ++ List.replicate (padLength w) false := by
  have hlen := eight_mul_length_packBits w
  refine List.ext_getElem? fun k => ?_
  by_cases hk : k < 8 * (packBits w).length
  · obtain ⟨b, hb, hbit⟩ := getElem?_packBits w hk
    have hk' : k < (w ++ List.replicate (padLength w) false).length := by simpa [hlen] using hk
    rw [getElem?_unpackBits _ k b hb, hbit, ← getD_append_replicate_false w (padLength w),
      List.getElem?_eq_getElem hk', List.getD_eq_getElem _ _ hk']
  · rw [List.getElem?_eq_none (by rw [length_unpackBits]; omega), List.getElem?_eq_none (by simp; omega)]

/-- Bit strings with the same bits, counted as 0 past their ends, fill the same byte. -/
theorem byteOfBits_congr {u v : Bits} (h : ∀ j, u.getD j false = v.getD j false) :
    byteOfBits u = byteOfBits v := by
  simp only [byteOfBits, h]

theorem getD_take_drop (w : Bits) (i n j : Nat) :
    ((w.drop i).take n).getD j false = (decide (j < n) && w.getD (i + j) false) := by
  by_cases h : j < n <;> simp [h]

/-- The fill bits that PACK appends are the zero fill of the packing (43_huffman.md R122, R123). -/
theorem packBits_append_replicate_padLength (w : Bits) :
    packBits (w ++ List.replicate (padLength w) false) = packBits w := by
  have hlen : ((w ++ List.replicate (padLength w) false).length + 7) / 8 = (w.length + 7) / 8 := by
    simp only [List.length_append, List.length_replicate, padLength]; omega
  rw [packBits, packBits, hlen]
  refine List.map_congr_left fun k _ => byteOfBits_congr fun j => ?_
  rw [getD_take_drop, getD_take_drop, getD_append_replicate_false]

end Sys2Proof.Machine
end

section
/-! PROOF. The Huffman code of an input (43_huffman.md R118 to R121). The queue is followed only up to the order of its
entries, which is enough to know the leaves of the tree; what a code map needs to be legal is read off the paths. -/

namespace Sys2Proof.Machine

/-! ### The queue and the merge loop -/

/-- The symbols at the leaves of a code tree, left to right. -/
def Tree.leaves : Tree → List Byte
  | .leaf s => [s]
  | .node l r => l.leaves ++ r.leaves

/-- The symbols at the leaves of the trees of a queue. -/
def queueLeaves (q : List QItem) : List Byte := q.flatMap fun x => x.tree.leaves

theorem qInsert_perm (x : QItem) (q : List QItem) : (qInsert x q).Perm (x :: q) := by
  induction q with
  | nil => exact .refl _
  | cons y ys ih =>
    rw [qInsert]
    split
    · exact .refl _
    · exact (ih.cons y).trans (.swap x y ys)

theorem queueLeaves_perm {p q : List QItem} (h : p.Perm q) : (queueLeaves p).Perm (queueLeaves q) :=
  h.flatMap_right _

theorem foldl_qInsert_perm {α : Type} (f : α → QItem) (l : List α) (q : List QItem) :
    (l.foldl (fun q a => qInsert (f a) q) q).Perm (l.map f ++ q) := by
  induction l generalizing q with
  | nil => exact .refl _
  | cons a l ih =>
    exact (ih _).trans (((qInsert_perm (f a) q).append_left _).trans List.perm_middle)

/-- The queue before the first merge holds one leaf a symbol. -/
theorem initialQueue_perm (X : List Byte) :
    (initialQueue X).Perm ((symbols X).zipIdx.map fun p => ⟨freq X p.1, p.2, .leaf p.1⟩) := by
  exact (foldl_qInsert_perm _ _ _).trans (.of_eq (List.append_nil _))

theorem queueLeaves_initialQueue_perm (X : List Byte) : (queueLeaves (initialQueue X)).Perm (symbols X) := by
  refine (queueLeaves_perm (initialQueue_perm X)).trans (.of_eq ?_)
  simp only [queueLeaves, List.flatMap_map, Tree.leaves]
  rw [← List.map_eq_flatMap, List.zipIdx_map_fst]

/-- Enough merges leave one tree, whose leaves are those of the queue. -/
theorem mergeQueue_spec (n seq : Nat) (q : List QItem) (hq : q ≠ []) (hn : q.length ≤ n + 1) :
    ∃ x, mergeQueue n seq q = [x] ∧ x.tree.leaves.Perm (queueLeaves q) := by
  induction n generalizing seq q with
  | zero =>
    obtain ⟨x, rfl⟩ : ∃ x, q = [x] := List.length_eq_one_iff.mp (by have := List.length_pos_iff.mpr hq; omega)
    exact ⟨x, rfl, by simp [queueLeaves]⟩
  | succ n ih =>
    match q, hq with
    | [x], _ => exact ⟨x, rfl, by simp [queueLeaves]⟩
    | a :: b :: rest, _ =>
      have hperm := qInsert_perm ⟨a.weight + b.weight, seq, .node a.tree b.tree⟩ rest
      have hlen := hperm.length_eq
      simp only [List.length_cons] at hn hlen
      obtain ⟨x, hx, hleaves⟩ := ih (seq + 1) (qInsert ⟨a.weight + b.weight, seq, .node a.tree b.tree⟩ rest)
        (List.length_pos_iff.mp (by omega)) (by omega)
      exact ⟨x, hx, hleaves.trans ((queueLeaves_perm hperm).trans (by simp [queueLeaves, Tree.leaves]))⟩

/-- HUF_BUILD of a symbol or more is a tree with exactly the symbols at its leaves (43_huffman.md R119). -/
theorem hufBuild_spec (X : List Byte) (h : symbols X ≠ []) :
    ∃ t, hufBuild X = some t ∧ t.leaves.Perm (symbols X) := by
  have hlen : (initialQueue X).length = (symbols X).length := by simp [(initialQueue_perm X).length_eq]
  have hq : initialQueue X ≠ [] := by simpa [← List.length_pos_iff, hlen] using h
  obtain ⟨x, hx, hleaves⟩ := mergeQueue_spec (symbols X).length (symbols X).length (initialQueue X) hq (by omega)
  exact ⟨x.tree, by simp [hufBuild, hx], hleaves.trans (queueLeaves_initialQueue_perm X)⟩

/-! ### The codes of a tree -/

/-- The walk that starts with the bits w lists each leaf with w and then the path to the leaf (43_huffman.md R120). -/
theorem mem_treeCodes (t : Tree) (w : Bits) (s : Byte) (v : Bits) :
    (s, v) ∈ treeCodes t w ↔ ∃ u, v = w ++ u ∧ t.leafAt u = some s := by
  induction t generalizing w with
  | leaf a =>
    constructor
    · intro h
      obtain ⟨rfl, rfl⟩ : s = a ∧ v = w := by simpa [treeCodes] using h
      exact ⟨[], by simp, rfl⟩
    · rintro ⟨u, rfl, hu⟩
      cases u <;> simp_all [treeCodes, Tree.leafAt]
  | node l r ihl ihr =>
    rw [treeCodes, List.mem_append, ihl, ihr]
    constructor
    · rintro (⟨u, rfl, hu⟩ | ⟨u, rfl, hu⟩)
      · exact ⟨false :: u, by simp, hu⟩
      · exact ⟨true :: u, by simp, hu⟩
    · rintro ⟨u, rfl, hu⟩
      match u with
      | [] => simp [Tree.leafAt] at hu
      | false :: u => exact .inl ⟨u, by simp, hu⟩
      | true :: u => exact .inr ⟨u, by simp, hu⟩

theorem map_fst_treeCodes (t : Tree) (w : Bits) : (treeCodes t w).map Prod.fst = t.leaves := by
  induction t generalizing w with
  | leaf a => rfl
  | node l r ihl ihr => simp [treeCodes, Tree.leaves, ihl, ihr]

/-- No path to a leaf goes on to another. -/
theorem Tree.leafAt_append {t : Tree} {u v : Bits} {a b : Byte} (hu : t.leafAt u = some a)
    (huv : t.leafAt (u ++ v) = some b) : v = [] := by
  induction t generalizing u with
  | leaf s =>
    cases u with
    | nil => cases v <;> simp_all [Tree.leafAt]
    | cons c u => simp [Tree.leafAt] at hu
  | node l r ihl ihr =>
    match u with
    | [] => simp [Tree.leafAt] at hu
    | false :: u => exact ihl hu huv
    | true :: u => exact ihr hu huv

theorem Tree.length_leaves_pos (t : Tree) : 0 < t.leaves.length := by
  induction t with
  | leaf s => simp [Tree.leaves]
  | node l r ihl _ => rw [Tree.leaves, List.length_append]; omega

/-- A path to a leaf is shorter than the number of leaves. -/
theorem Tree.length_lt_of_leafAt {t : Tree} {u : Bits} {a : Byte} (hu : t.leafAt u = some a) :
    u.length < t.leaves.length := by
  induction t generalizing u with
  | leaf s =>
    cases u with
    | nil => simp [Tree.leaves]
    | cons c u => simp [Tree.leafAt] at hu
  | node l r ihl ihr =>
    rw [Tree.leaves, List.length_append]
    match u with
    | [] => simp [Tree.leafAt] at hu
    | false :: u =>
      have hlt := ihl hu
      have hpos := r.length_leaves_pos
      rw [List.length_cons]; omega
    | true :: u =>
      have hlt := ihr hu
      have hpos := l.length_leaves_pos
      rw [List.length_cons]; omega

/-- With two leaves or more no path to a leaf is empty. -/
theorem Tree.ne_nil_of_leafAt {t : Tree} {u : Bits} {a : Byte} (ht : 2 ≤ t.leaves.length)
    (hu : t.leafAt u = some a) : u ≠ [] := by
  rintro rfl
  cases t with
  | leaf s => simp [Tree.leaves] at ht
  | node l r => simp [Tree.leafAt] at hu

/-! ### The code map of an input -/

theorem mem_identityAlphabet (s : Byte) : s ∈ identityAlphabet :=
  List.mem_map.mpr ⟨s.toNat, List.mem_range.mpr s.isLt, by simp⟩

theorem mem_symbols (X : List Byte) (s : Byte) : s ∈ symbols X ↔ s ∈ X := by
  simp [symbols, freq, mem_identityAlphabet, List.count_pos_iff]

theorem length_symbols_le (X : List Byte) : (symbols X).length ≤ 256 :=
  (List.length_filter_le _ _).trans_eq identityAlphabet_ok.1

/-- The symbols are in ascending order (43_huffman.md R118). -/
theorem symbols_pairwise_lt (X : List Byte) : (symbols X).Pairwise fun a b => a.toNat < b.toNat := by
  refine List.Pairwise.filter _ (List.pairwise_map.mpr (List.pairwise_lt_range.imp_of_mem fun ha hb hab => ?_))
  simp only [List.mem_range] at ha hb
  simpa [Nat.mod_eq_of_lt ha, Nat.mod_eq_of_lt hb] using hab

theorem codeOf_cons (e : Byte × Bits) (c : Codes) (s : Byte) :
    codeOf (e :: c) s = if s = e.1 then e.2 else codeOf c s := by
  obtain ⟨a, w⟩ := e
  by_cases h : s = a
  · simp [codeOf, h]
  · have hbeq : (s == a) = false := beq_eq_false_iff_ne.mpr h
    simp [codeOf, List.lookup_cons, h, hbeq]

/-- A symbol of the map has its code in the map. -/
theorem codeOf_mem {c : Codes} {s : Byte} (hs : s ∈ c.map Prod.fst) : (s, codeOf c s) ∈ c := by
  induction c with
  | nil => simp at hs
  | cons e c ih =>
    rw [codeOf_cons]
    by_cases h : s = e.1
    · simp [h]
    · have hs' : s ∈ c.map Prod.fst := by simpa [h] using hs
      simpa [h] using .inr (ih hs')

/-- The code map of an input (43_huffman.md R119, R120): empty, the one code 0, or the codes of the tree. -/
theorem buildCodes_cases (X : List Byte) :
    (symbols X = [] ∧ buildCodes X = []) ∨
      (∃ s, symbols X = [s] ∧ buildCodes X = [(s, [false])]) ∨
      ∃ t, hufBuild X = some t ∧ t.leaves.Perm (symbols X) ∧ 2 ≤ (symbols X).length ∧
        buildCodes X = (symbols X).map fun s => (s, codeOf (treeCodes t []) s) := by
  match hS : symbols X with
  | [] => exact .inl ⟨rfl, by simp [buildCodes, hS]⟩
  | [s] => exact .inr (.inl ⟨s, rfl, by simp [buildCodes, hS]⟩)
  | a :: b :: S =>
    obtain ⟨t, ht, hleaves⟩ := hufBuild_spec X (by simp [hS])
    exact .inr (.inr ⟨t, ht, hS ▸ hleaves, by simp, by simp [buildCodes, hS, ht]⟩)

theorem map_fst_buildCodes (X : List Byte) : (buildCodes X).map Prod.fst = symbols X := by
  obtain ⟨hS, h⟩ | ⟨s, hS, h⟩ | ⟨t, -, -, -, h⟩ := buildCodes_cases X
  · simp [h, hS]
  · simp [h, hS]
  · simp [h, Function.comp_def]

/-- Every byte of the input has its code in the map. -/
theorem codeOf_buildCodes_mem {X : List Byte} {s : Byte} (hs : s ∈ X) :
    (s, codeOf (buildCodes X) s) ∈ buildCodes X :=
  codeOf_mem (by rwa [map_fst_buildCodes, mem_symbols])

/-- With two symbols or more the codes are paths of the tree to their symbols (43_huffman.md R120). -/
theorem leafAt_of_mem_buildCodes {X : List Byte} {t : Tree} (hleaves : t.leaves.Perm (symbols X))
    (h : buildCodes X = (symbols X).map fun s => (s, codeOf (treeCodes t []) s)) {e : Byte × Bits}
    (he : e ∈ buildCodes X) : t.leafAt e.2 = some e.1 := by
  obtain ⟨s, hs, rfl⟩ := List.mem_map.mp (h ▸ he)
  have hmem : (s, codeOf (treeCodes t []) s) ∈ treeCodes t [] :=
    codeOf_mem (by rw [map_fst_treeCodes]; exact hleaves.mem_iff.mpr hs)
  obtain ⟨u, hu, hleaf⟩ := (mem_treeCodes t [] s _).mp hmem
  exact hu ▸ hleaf

theorem buildCodes_pairwise_lt (X : List Byte) : (buildCodes X).Pairwise fun a b => a.1.toNat < b.1.toNat := by
  have h := symbols_pairwise_lt X
  rwa [← map_fst_buildCodes, List.pairwise_map] at h

/-- The code lengths are within the byte that holds them (43_huffman.md R121). -/
theorem length_code_buildCodes (X : List Byte) :
    ∀ e ∈ buildCodes X, 1 ≤ e.2.length ∧ e.2.length ≤ 255 := by
  obtain ⟨-, h⟩ | ⟨s, -, h⟩ | ⟨t, -, hleaves, htwo, h⟩ := buildCodes_cases X
  · simp [h]
  · simp [h]
  · intro e he
    have hleaf := leafAt_of_mem_buildCodes hleaves h he
    have hlen := hleaves.length_eq
    have hne := List.length_pos_iff.mpr (Tree.ne_nil_of_leafAt (by omega) hleaf)
    have hlt := Tree.length_lt_of_leafAt hleaf
    have hle := length_symbols_le X
    omega

/-- No code begins the code of another symbol (43_huffman.md R121). -/
theorem not_prefix_of_mem_buildCodes {X : List Byte} {a b : Byte × Bits} (ha : a ∈ buildCodes X)
    (hb : b ∈ buildCodes X) (hab : a.1 ≠ b.1) : ¬a.2 <+: b.2 := by
  obtain ⟨-, h⟩ | ⟨s, -, h⟩ | ⟨t, -, hleaves, -, h⟩ := buildCodes_cases X
  · simp [h] at ha
  · simp_all
  · rintro ⟨v, hv⟩
    have hleafa := leafAt_of_mem_buildCodes hleaves h ha
    have hleafb := leafAt_of_mem_buildCodes hleaves h hb
    obtain rfl := Tree.leafAt_append hleafa (hv ▸ hleafb)
    rw [← hv, List.append_nil, hleafa] at hleafb
    exact hab (Option.some.inj hleafb)

/-- The code map of every input is one a table may hold. -/
theorem buildCodes_legal (X : List Byte) : LegalCodes (buildCodes X) := by
  have hlen : (buildCodes X).length = (symbols X).length := by rw [← map_fst_buildCodes, List.length_map]
  refine ⟨hlen ▸ length_symbols_le X, buildCodes_pairwise_lt X, length_code_buildCodes X, ?_⟩
  refine (buildCodes_pairwise_lt X).imp_of_mem fun {a b} ha hb hab => ?_
  have hne : a.1 ≠ b.1 := fun h => by simp [h] at hab
  exact ⟨not_prefix_of_mem_buildCodes ha hb hne, not_prefix_of_mem_buildCodes hb ha hne.symm⟩

end Sys2Proof.Machine
end

section
/-! PROOF. Table and payload read back (43_huffman.md R125 to R127), for every legal code map and then for
that of an input. -/

namespace Sys2Proof.Machine

/-! ### Legal code maps -/

/-- In a legal map one code begins another only where both are one entry. -/
theorem LegalCodes.eq_of_prefix {c : Codes} (hc : LegalCodes c) {a b : Byte × Bits} (ha : a ∈ c) (hb : b ∈ c)
    (hab : a.2 <+: b.2) : a = b := by
  obtain ⟨-, -, -, hfree⟩ := hc
  have hsymm : Std.Symm fun a b : Byte × Bits => ¬a.2 <+: b.2 ∧ ¬b.2 <+: a.2 := ⟨fun _ _ h => And.symm h⟩
  by_contra hne
  exact (hfree.forall ha hb hne).1 hab

theorem LegalCodes.code_ne_nil {c : Codes} (hc : LegalCodes c) {e : Byte × Bits} (he : e ∈ c) : e.2 ≠ [] := by
  obtain ⟨-, -, hlen, -⟩ := hc
  exact List.length_pos_iff.mp (hlen e he).1

/-- A legal map passes TAB_PARSE's check of the codes (43_huffman.md R121). -/
theorem LegalCodes.prefixFree {c : Codes} (hc : LegalCodes c) : prefixFree c = true := by
  simp only [Machine.prefixFree, List.all_eq_true, Bool.or_eq_true, beq_iff_eq, Bool.not_eq_true',
    ← Bool.not_eq_true, List.isPrefixOf_iff_prefix]
  intro a ha b hb
  by_cases hab : a.2 <+: b.2
  · exact .inl (congrArg Prod.fst (hc.eq_of_prefix ha hb hab))
  · exact .inr hab

/-! ### The table -/

theorem ofBE_be16 {n : Nat} (hn : n < 2 ^ 16) : ofBE (be16 n) = n := by
  simp only [ofBE, be16, List.foldl, BitVec.toNat_ofNat]
  omega

/-- One entry at the front of the bytes left is read back (43_huffman.md R122, R125). -/
theorem parseEntries_serEntry (n : Nat) (last : Option Byte) (e : Byte × Bits) (t : List Byte)
    (hasc : ascends last e.1 = true) (hpos : 1 ≤ e.2.length) (hle : e.2.length ≤ 255) :
    parseEntries (n + 1) last (serEntry e ++ t) =
      (parseEntries n (some e.1) t).map fun r => (e :: r.1, r.2) := by
  obtain ⟨s, w⟩ := e
  have hlen : (BitVec.ofNat 8 w.length).toNat = w.length := Nat.mod_eq_of_lt (Nat.lt_succ_of_le hle)
  have hne : BitVec.ofNat 8 w.length ≠ 0 := fun h => by
    rw [h] at hlen
    exact absurd (hlen ▸ hpos) (by decide)
  have htake : (packBits w ++ t).take ((w.length + 7) / 8) = packBits w := by
    rw [← length_packBits, List.take_left]
  have hdrop : (packBits w ++ t).drop ((w.length + 7) / 8) = t := by
    rw [← length_packBits, List.drop_left]
  have hfit : ¬(packBits w ++ t).length < (w.length + 7) / 8 := by simp [length_packBits]
  simp only [serEntry, List.cons_append, parseEntries, hlen, hasc, hne, htake, hdrop, hfit, unpackBits_packBits]
  cases parseEntries n (some s) t <;> simp

/-- The entries of an ascending map are read back (43_huffman.md R122, R125). -/
theorem parseEntries_flatMap_serEntry (c : Codes) (last : Option Byte) (t : List Byte)
    (hasc : ∀ e ∈ c, ascends last e.1 = true) (hpair : c.Pairwise fun a b => a.1.toNat < b.1.toNat)
    (hlen : ∀ e ∈ c, 1 ≤ e.2.length ∧ e.2.length ≤ 255) :
    parseEntries c.length last (c.flatMap serEntry ++ t) = some (c, t) := by
  induction c generalizing last with
  | nil => rfl
  | cons e c ih =>
    obtain ⟨hfirst, hrest⟩ := List.pairwise_cons.mp hpair
    obtain ⟨⟨hpos, hle⟩, hlens⟩ := List.forall_mem_cons.mp hlen
    rw [List.flatMap_cons, List.append_assoc, List.length_cons,
      parseEntries_serEntry _ _ _ _ (hasc e List.mem_cons_self) hpos hle,
      ih (some e.1) (fun b hb => by simpa [ascends] using hfirst b hb) hrest hlens]
    rfl

/-- The table of a legal code map parses to the map (43_huffman.md R125). -/
theorem tabParse_tabSer {c : Codes} (hc : LegalCodes c) : tabParse (tabSer c) = .ok c := by
  have hfree := hc.prefixFree
  obtain ⟨hcount, hpair, hlen, -⟩ := hc
  have htake : (tabSer c).take 2 = be16 c.length := rfl
  have hdrop : (tabSer c).drop 2 = c.flatMap serEntry := rfl
  have htwo : ¬(tabSer c).length < 2 := by simp [tabSer, be16]
  have hentries := parseEntries_flatMap_serEntry c none [] (fun _ _ => rfl) hpair hlen
  rw [List.append_nil] at hentries
  simp [tabParse, htwo, htake, hdrop, ofBE_be16 (show c.length < 2 ^ 16 by omega), hcount, hentries, hfree]

/-! ### The payload -/

/-- Within a code, the bits that end it are read and its symbol comes out (43_huffman.md R126). -/
theorem hufDecFrom_code {c : Codes} (hc : LegalCodes c) (cap : Nat) (s : Byte) (acc u : Bits) (n : Nat) (bs : Bits)
    (hmem : (s, acc ++ u) ∈ c) (hu : u ≠ []) (hn : n + 1 ≤ cap) :
    hufDecFrom c cap acc n (u ++ bs) = (hufDecFrom c cap [] (n + 1) bs).map (s :: ·) := by
  induction u generalizing acc with
  | nil => exact absurd rfl hu
  | cons b u ih =>
    have happ : acc ++ b :: u = (acc ++ [b]) ++ u := by simp
    rw [happ] at hmem
    have hany : c.any (fun e => (acc ++ [b]).isPrefixOf e.2) = true :=
      List.any_eq_true.mpr ⟨_, hmem, by simp⟩
    have hown : ∀ e ∈ c, e.2 = acc ++ [b] → e = (s, acc ++ [b] ++ u) := fun e he h =>
      hc.eq_of_prefix he hmem (h ▸ List.prefix_append _ _)
    rw [List.cons_append, hufDecFrom]
    cases hfind : c.find? (fun e => e.2 == acc ++ [b]) with
    | some e =>
      have he : e.2 = acc ++ [b] := by simpa using List.find?_some hfind
      obtain rfl := hown e (List.mem_of_find?_eq_some hfind) he
      obtain rfl : u = [] := by simpa using he
      simp only [hany, Bool.not_true, Bool.false_eq_true, if_false, not_lt.mpr hn, List.nil_append]
      cases hufDecFrom c cap [] (n + 1) bs <;> rfl
    | none =>
      have hne : u ≠ [] := by
        rintro rfl
        simpa using List.find?_eq_none.mp hfind _ hmem
      simpa only [hany, Bool.not_true, Bool.false_eq_true, if_false] using ih (acc ++ [b]) hmem hne

/-- Bits that spell symbols within the capacity decode to the symbols (43_huffman.md R126). -/
theorem hufDecFrom_spells {c : Codes} (hc : LegalCodes c) (cap : Nat) (R : List Byte) (w : Bits) (n : Nat)
    (hspell : Spells c R w) (hcap : n + R.length ≤ cap) : hufDecFrom c cap [] n w = .ok R := by
  induction R generalizing w n with
  | nil =>
    obtain rfl : w = [] := (spells_nil c w).mp hspell
    rfl
  | cons s R ih =>
    obtain ⟨u, v, hmem, hv, rfl⟩ := (spells_cons c s R w).mp hspell
    have hu : u ≠ [] := hc.code_ne_nil hmem
    rw [List.length_cons] at hcap
    rw [hufDecFrom_code hc cap s [] u n v hmem hu (by omega), ih v (n + 1) hv (by omega)]
    rfl

/-- HUF_DEC gives the symbols a payload decodes to (43_huffman.md R126). -/
theorem hufDec_of_hufDecodes {c : Codes} (hc : LegalCodes c) {cap : Nat} {P R : List Byte}
    (h : HufDecodes c cap P R) : hufDec c cap P = .ok R := by
  obtain ⟨w, fill, ⟨hpad, packed, rfl, hbits⟩, hspell, hcap, hzero⟩ := h
  have hlen : 8 * packed.length = w.length + fill.length := by
    rw [← length_unpackBits, hbits, List.length_append]
  have hpad8 : (BitVec.ofNat 8 fill.length).toNat = fill.length := by simp; omega
  have hfill : fill.any id = false := by simpa using hzero
  have hdec := hufDecFrom_spells hc cap R w 0 hspell (by omega)
  simp [hufDec, hpad8, hlen, hbits, hdec, hfill, not_lt.mpr hpad]

/-! ### The table and the payload of an input -/

/-- The codes of the input, one after the other, spell it (43_huffman.md R123). -/
theorem spells_flatMap_codeOf (c : Codes) (X : List Byte) (h : ∀ s ∈ X, (s, codeOf c s) ∈ c) :
    Spells c X (X.flatMap (codeOf c)) := by
  induction X with
  | nil => simp
  | cons s X ih =>
    obtain ⟨hs, hX⟩ := List.forall_mem_cons.mp h
    exact (spells_cons c s X _).mpr ⟨_, _, hs, ih hX, rfl⟩

theorem spells_buildCodes (X : List Byte) :
    Spells (buildCodes X) X (X.flatMap (codeOf (buildCodes X))) :=
  spells_flatMap_codeOf _ X fun _ => codeOf_buildCodes_mem

/-- PACK is the pad length and the packed codes: the fill bits it appends are those of the packing (43_huffman.md
R122, R123). -/
theorem pack_eq (X : List Byte) (c : Codes) :
    pack X c = BitVec.ofNat 8 (padLength (X.flatMap (codeOf c))) :: packBits (X.flatMap (codeOf c)) := by
  rw [pack, packBits_append_replicate_padLength]

/-- Packed bits after their pad length are a payload of the bits, filled with zeros (30_encoding.md R85). -/
theorem payloadOf_packBits (w : Bits) :
    PayloadOf (BitVec.ofNat 8 (padLength w) :: packBits w) w (List.replicate (padLength w) false) :=
  ⟨by simpa using padLength_le w, packBits w, by rw [List.length_replicate], unpackBits_packBits w⟩

/-- The payload of the input decodes to it with its code map (43_huffman.md R127). -/
theorem hufDecodes_pack (cap : Nat) (X : List Byte) (hcap : X.length ≤ cap) :
    HufDecodes (buildCodes X) cap (pack X (buildCodes X)) X :=
  ⟨_, _, pack_eq X _ ▸ payloadOf_packBits _, spells_buildCodes X, hcap, fun _ => List.eq_of_mem_replicate⟩

/-- Settles O39: packing and unpacking bit by bit; the input's code map, which comes from the paths of a tree, is legal,
so its table parses to it and its codes, none of which begins another, are read off the payload one by one. -/
theorem huffmanRoundTrips : Obligations.HuffmanRoundTrips := by
  refine ⟨fun w => ⟨length_packBits w, fun _ => getElem?_packBits w⟩,
    fun s => ⟨length_unpackBits s, getElem?_unpackBits s⟩, fun _ => rfl,
    fun X => ⟨rfl, _, spells_buildCodes X, pack_eq X _⟩, fun cap X hcap => ?_⟩
  have hlegal := buildCodes_legal X
  exact ⟨tabParse_tabSer hlegal, hlegal.prefixFree, hufDec_of_hufDecodes hlegal (hufDecodes_pack cap X hcap)⟩

end Sys2Proof.Machine
end

section
/-! PROOF. The order of the FIFOs (20_memory.md R69). Each operation is said to leave both FIFOs, to read at most the
oldest IN byte, or to move a FIFO as its port does; every instruction is then one of these. -/

namespace Sys2Proof.Machine

/-- What an instruction may do to the FIFOs (20_memory.md R69): the OUT FIFO keeps its bytes, takes one at its end, or
gives its oldest; the IN FIFO likewise; and the flushes of ABORT and of reset. -/
def FifoStep (i : Instr) (s t : State) : Prop :=
  (t.outFifo = s.outFifo ∨ (∃ b, t.outFifo = s.outFifo ++ [b] ∧ (i = .framed ∨ i = .join)) ∨
    (∃ b, s.outFifo = b :: t.outFifo ∧ i = .outPop ∧ t.resp = .byte b) ∨ (i = .reset ∧ t.outFifo = [])) ∧
  (t.inFifo = s.inFifo ∨ (∃ b, t.inFifo = s.inFifo ++ [b] ∧ i = .inPush b) ∨
    (∃ b, s.inFifo = b :: t.inFifo ∧ (i = .split ∨ i = .unframe ∨ i = .drain)) ∨
    (t.inFifo = [] ∧ (i = .abort ∨ i = .reset ∨ ∃ v, i = .regWrite 0x10 v ∧ v.toNat = 3)))

/-- Both FIFOs hold the same bytes. -/
def SameFifos (s t : State) : Prop := t.outFifo = s.outFifo ∧ t.inFifo = s.inFifo

/-- The engine reads at most one IN byte, the oldest, and leaves the OUT FIFO. -/
def AtMostPopsIn (s t : State) : Prop :=
  t.outFifo = s.outFifo ∧ (t.inFifo = s.inFifo ∨ ∃ b, s.inFifo = b :: t.inFifo)

/-- A stage function that ends in a result leaves both FIFOs. -/
def KeepsFifos (s : State) : Except ErrKind State → Prop
  | .ok t => SameFifos s t
  | .error _ => True

theorem SameFifos.refl (s : State) : SameFifos s s := ⟨rfl, rfl⟩

theorem SameFifos.trans {s t u : State} (hst : SameFifos s t) (htu : SameFifos t u) : SameFifos s u :=
  ⟨htu.1.trans hst.1, htu.2.trans hst.2⟩

theorem SameFifos.fifoStep {s t : State} (h : SameFifos s t) (i : Instr) : FifoStep i s t :=
  ⟨.inl h.1, .inl h.2⟩

theorem SameFifos.atMostPopsIn {s t : State} (h : SameFifos s t) : AtMostPopsIn s t := ⟨h.1, .inl h.2⟩

theorem AtMostPopsIn.fifoStep {s t : State} (h : AtMostPopsIn s t) {i : Instr}
    (hi : i = .split ∨ i = .unframe ∨ i = .drain) : FifoStep i s t :=
  ⟨.inl h.1, h.2.imp_right fun ⟨b, hb⟩ => .inr (.inl ⟨b, hb, hi⟩)⟩

theorem AtMostPopsIn.ite {s t u : State} {p : Prop} [Decidable p] (ht : AtMostPopsIn s t) (hu : AtMostPopsIn s u) :
    AtMostPopsIn s (if p then t else u) := by
  split
  · exact ht
  · exact hu

/-! ### The host's operations -/

theorem startOrRefuse_sameFifos (o : Op) (s : State) : SameFifos s (s.startOrRefuse o) := by
  rw [State.startOrRefuse]
  split <;> exact ⟨rfl, rfl⟩

theorem abort_fifos (s : State) :
    s.abort.outFifo = s.outFifo ∧ (s.abort.inFifo = s.inFifo ∨ s.abort.inFifo = []) := by
  rw [State.abort]
  split
  · exact ⟨rfl, .inr rfl⟩
  · exact ⟨rfl, .inl rfl⟩

/-- A CMD write changes a FIFO only as ABORT. -/
theorem commandWrite_fifos (v : Word) (s : State) :
    (s.commandWrite v).outFifo = s.outFifo ∧
      ((s.commandWrite v).inFifo = s.inFifo ∨ ((s.commandWrite v).inFifo = [] ∧ v.toNat = 3)) := by
  obtain ⟨-, h⟩ | ⟨-, h⟩ | ⟨-, h⟩ | ⟨h3, h⟩ | ⟨-, h⟩ := s.commandWrite_cases v <;> rw [h]
  · exact ⟨rfl, .inl rfl⟩
  · exact (startOrRefuse_sameFifos _ s).imp_right .inl
  · exact (startOrRefuse_sameFifos _ s).imp_right .inl
  · exact (abort_fifos s).imp_right fun hin => hin.imp_right fun hnil => ⟨hnil, h3⟩
  · exact ⟨rfl, .inl rfl⟩

/-- A register write changes a FIFO only as the command ABORT. -/
theorem writeReg_fifos (off : BitVec 6) (v : Word) (s : State) :
    (s.writeReg off v).outFifo = s.outFifo ∧
      ((s.writeReg off v).inFifo = s.inFifo ∨ ((s.writeReg off v).inFifo = [] ∧ off = 0x10 ∧ v.toNat = 3)) := by
  obtain ⟨-, h⟩ | ⟨-, -, -, h⟩ | ⟨-, h⟩ | ⟨hoff, h⟩ | ⟨-, h⟩ | h := s.writeReg_cases off v <;> rw [h]
  case inr.inr.inr.inl =>
    exact (commandWrite_fifos v s).imp_right fun hin => hin.imp_right fun ⟨hnil, h3⟩ => ⟨hnil, hoff, h3⟩
  all_goals exact ⟨rfl, .inl rfl⟩

theorem busRead_sameFifos (off : BitVec 6) (s : State) : SameFifos s (s.busRead off) := by
  rw [State.busRead]
  split <;> exact ⟨rfl, rfl⟩

theorem busWrite_fifoStep (off : BitVec 6) (v : Word) (s : State) : FifoStep (.regWrite off v) s (s.busWrite off v) := by
  rw [State.busWrite]
  split
  · obtain ⟨hout, hin⟩ := writeReg_fifos off v s
    refine ⟨.inl hout, hin.imp_right fun ⟨hnil, hoff, h3⟩ => .inr (.inr ⟨hnil, .inr (.inr ⟨v, ?_, h3⟩)⟩)⟩
    rw [hoff]
  · exact SameFifos.fifoStep ⟨rfl, rfl⟩ _

theorem hostPush_fifoStep (b : Byte) (s : State) : FifoStep (.inPush b) s (s.hostPush b) := by
  obtain ⟨-, h⟩ | ⟨-, h⟩ := s.hostPush_cases b <;> rw [h]
  · exact ⟨.inl rfl, .inr (.inl ⟨b, rfl, rfl⟩)⟩
  · exact SameFifos.fifoStep ⟨rfl, rfl⟩ _

theorem hostPop_fifoStep (s : State) : FifoStep .outPop s s.hostPop := by
  obtain ⟨-, h⟩ | ⟨b, rest, hout, h⟩ := s.hostPop_cases <;> rw [h]
  · exact SameFifos.fifoStep ⟨rfl, rfl⟩ _
  · exact ⟨.inr (.inr (.inl ⟨b, hout, rfl, rfl⟩)), .inl rfl⟩

/-! ### The stages at the ports -/

theorem pushPending_fifoStep {i : Instr} (hi : i = .framed ∨ i = .join) (s : State) :
    FifoStep i s s.pushPending := by
  obtain ⟨-, h⟩ | ⟨b, rest, -, -, h⟩ | ⟨-, -, h⟩ := s.pushPending_cases <;> rw [h]
  · exact SameFifos.fifoStep ⟨rfl, rfl⟩ i
  · exact ⟨.inr (.inl ⟨b, rfl, hi⟩), .inl rfl⟩
  · exact (SameFifos.refl s).fifoStep i

/-- A read of UNFRAME holds on an empty IN FIFO, or it takes the oldest byte. -/
theorem AtMostPopsIn.of_take {s t : State} {took : Byte → List Byte → State}
    (h : (s.inFifo = [] ∧ t = s) ∨ ∃ b rest, s.inFifo = b :: rest ∧ t = took b rest)
    (htook : ∀ b rest, (took b rest).outFifo = s.outFifo ∧ (took b rest).inFifo = rest) : AtMostPopsIn s t := by
  obtain ⟨-, rfl⟩ | ⟨b, rest, hin, rfl⟩ := h
  · exact (SameFifos.refl t).atMostPopsIn
  · obtain ⟨hout, hrest⟩ := htook b rest
    exact ⟨hout, .inr ⟨b, by rw [hrest, hin]⟩⟩

theorem takeFieldByte_atMostPopsIn (s : State) : AtMostPopsIn s s.takeFieldByte :=
  .of_take s.takeFieldByte_cases fun _ _ => ⟨rfl, rfl⟩

theorem takeTabByte_atMostPopsIn (s : State) : AtMostPopsIn s s.takeTabByte :=
  .of_take s.takeTabByte_cases fun _ _ => ⟨rfl, rfl⟩

theorem takePayByte_atMostPopsIn (s : State) : AtMostPopsIn s s.takePayByte :=
  .of_take s.takePayByte_cases fun _ _ => ⟨rfl, rfl⟩

theorem checkFour_sameFifos (f : FrameField) (s : State) : SameFifos s (s.checkFour f) := by
  rw [State.checkFour]
  split <;> exact ⟨rfl, rfl⟩

theorem checkTabLen_sameFifos (s : State) : SameFifos s s.checkTabLen := by
  simp only [State.checkTabLen]
  split
  · exact ⟨rfl, rfl⟩
  · split <;> exact ⟨rfl, rfl⟩

theorem checkPayLen_sameFifos (s : State) : SameFifos s s.checkPayLen := by
  simp only [State.checkPayLen]
  split
  · exact ⟨rfl, rfl⟩
  · split <;> exact ⟨rfl, rfl⟩

/-- UNFRAME checks and moves, or reads a byte of its field (44_pipeline.md R140). -/
theorem unframeStep_atMostPopsIn (s : State) : AtMostPopsIn s s.unframeStep := by
  rw [State.unframeStep]
  cases s.field with
  | idxCheck | tabLenCheck | payLenCheck => exact (checkFour_sameFifos _ s).atMostPopsIn
  | idx => exact .ite ⟨rfl, .inl rfl⟩ (takeFieldByte_atMostPopsIn s)
  | tabLen => exact .ite (checkTabLen_sameFifos s).atMostPopsIn (takeFieldByte_atMostPopsIn s)
  | tab => exact .ite ⟨rfl, .inl rfl⟩ (takeTabByte_atMostPopsIn s)
  | payLen => exact .ite (checkPayLen_sameFifos s).atMostPopsIn (takeFieldByte_atMostPopsIn s)
  | pay => exact .ite ⟨rfl, .inl rfl⟩ (takePayByte_atMostPopsIn s)

theorem drainStep_atMostPopsIn (s : State) : AtMostPopsIn s s.drainStep := by
  obtain ⟨-, h⟩ | ⟨b, rest, -, hin, h⟩ | ⟨-, -, h⟩ := s.drainStep_cases <;> rw [h]
  · exact ⟨rfl, .inl rfl⟩
  · exact ⟨rfl, .inr ⟨b, hin⟩⟩
  · exact ⟨rfl, .inl rfl⟩

theorem execSplit_atMostPopsIn (s : State) : ∃ t, execSplit s = .next t ∧ AtMostPopsIn s t := by
  obtain ⟨b, rest, -, -, hin, h⟩ | ⟨-, -, -, h⟩ | ⟨-, h⟩ := execSplit_cases s <;> refine ⟨_, h, ?_⟩
  · exact ⟨rfl, .inr ⟨b, hin⟩⟩
  · exact ⟨rfl, .inl rfl⟩
  · exact ⟨rfl, .inl rfl⟩

/-! ### The stage functions -/

theorem KeepsFifos.moveTo {s : State} {r : Except ErrKind State} (h : KeepsFifos s r) (S : Stage) :
    KeepsFifos s (moveTo S r) :=
  match r, h with
  | .ok _, h => h
  | .error _, _ => trivial

/-- Neither the result of a stage function nor error entry touches a FIFO (60_exceptions.md R172). -/
theorem KeepsFifos.settle {s : State} {r : Except ErrKind State} (h : KeepsFifos s r) (S : Stage) :
    ∃ t, s.settle S r = .next t ∧ SameFifos s t :=
  match r, h with
  | .ok t, h => ⟨t, rfl, h⟩
  | .error k, _ => ⟨s.raise k S, rfl, rfl, rfl⟩

theorem applyBwtFwdExplicit_keepsFifos (s : State) : KeepsFifos s s.applyBwtFwdExplicit := ⟨rfl, rfl⟩

theorem applyBwtFwdSentinel_keepsFifos (s : State) : KeepsFifos s s.applyBwtFwdSentinel := by
  rw [State.applyBwtFwdSentinel]
  split
  · exact ⟨rfl, rfl⟩
  · trivial

theorem applyBwtInvExplicit_keepsFifos (s : State) : KeepsFifos s s.applyBwtInvExplicit := by
  rw [State.applyBwtInvExplicit]
  split
  · exact ⟨rfl, rfl⟩
  · trivial

theorem applyBwtInvSentinel_keepsFifos (s : State) : KeepsFifos s s.applyBwtInvSentinel := by
  rw [State.applyBwtInvSentinel]
  split
  · exact ⟨rfl, rfl⟩
  · trivial

theorem applyMtfEnc_keepsFifos (s : State) : KeepsFifos s s.applyMtfEnc := ⟨rfl, rfl⟩

theorem applyMtfDec_keepsFifos (s : State) : KeepsFifos s s.applyMtfDec := ⟨rfl, rfl⟩

theorem applyRleEnc_keepsFifos (s : State) : KeepsFifos s s.applyRleEnc := ⟨rfl, rfl⟩

theorem applyRleDec_keepsFifos (s : State) : KeepsFifos s s.applyRleDec := by
  rw [State.applyRleDec]
  split
  · exact ⟨rfl, rfl⟩
  · trivial

theorem applyHufEnc_keepsFifos (s : State) : KeepsFifos s s.applyHufEnc := ⟨rfl, rfl⟩

theorem applyTabParse_keepsFifos (s : State) : KeepsFifos s s.applyTabParse := by
  rw [State.applyTabParse]
  split
  · exact ⟨rfl, rfl⟩
  · trivial

theorem applyHufDec_keepsFifos (s : State) : KeepsFifos s s.applyHufDec := by
  rw [State.applyHufDec]
  split
  · exact ⟨rfl, rfl⟩
  · trivial

/-! ### The stages that apply them -/

theorem execBwt_sameFifos (s : State) : ∃ t, execBwt s = .next t ∧ SameFifos s t := by
  rw [execBwt]
  refine KeepsFifos.settle (KeepsFifos.moveTo ?_ _) _
  split
  · exact applyBwtFwdExplicit_keepsFifos s
  · exact applyBwtFwdSentinel_keepsFifos s

theorem execEntropy_sameFifos (s : State) : ∃ t, execEntropy s = .next t ∧ SameFifos s t := ⟨_, rfl, rfl, rfl⟩

theorem execEntropyInv_sameFifos (s : State) : ∃ t, execEntropyInv s = .next t ∧ SameFifos s t := by
  have hparse := applyTabParse_keepsFifos s
  rw [execEntropyInv]
  cases h : s.applyTabParse with
  | ok u =>
    rw [h] at hparse
    obtain ⟨t, ht, hut⟩ := ((applyHufDec_keepsFifos u).moveTo .rleInv).settle .entropyInv
    exact ⟨t, ht, SameFifos.trans hparse hut⟩
  | error k => exact ⟨_, rfl, rfl, rfl⟩

theorem execBwtInv_sameFifos (s : State) : ∃ t, execBwtInv s = .next t ∧ SameFifos s t := by
  rw [execBwtInv]
  refine KeepsFifos.settle (KeepsFifos.moveTo ?_ _) _
  cases s.mode with
  | explicitIndex =>
    have h := applyBwtInvExplicit_keepsFifos s
    revert h
    cases s.applyBwtInvExplicit <;> exact id
  | sentinel =>
    have h := applyBwtInvSentinel_keepsFifos s
    revert h
    cases s.applyBwtInvSentinel <;> exact id

/-! ### Every instruction -/

/-- Every instruction moves the FIFOs as 20_memory.md R69 says. -/
theorem exec_fifoStep (i : Instr) (s : State) : ∃ t, exec i s = .next t ∧ FifoStep i s t := by
  have same {i : Instr} (h : ∃ t, exec i s = .next t ∧ SameFifos s t) : ∃ t, exec i s = .next t ∧ FifoStep i s t :=
    h.imp fun _ => And.imp_right fun hst => hst.fifoStep i
  cases i with
  | nop | idle => exact ⟨s, rfl, (SameFifos.refl s).fifoStep _⟩
  | compress | decompress => exact ⟨_, rfl, (startOrRefuse_sameFifos _ s).fifoStep _⟩
  | abort =>
    obtain ⟨hout, hin⟩ := abort_fifos s
    exact ⟨_, rfl, .inl hout, hin.imp_right fun hnil => .inr (.inr ⟨hnil, .inl rfl⟩)⟩
  | reservedCmd v => exact ⟨_, rfl, SameFifos.fifoStep ⟨rfl, rfl⟩ _⟩
  | split => exact (execSplit_atMostPopsIn s).imp fun _ => And.imp_right fun h => h.fifoStep (.inl rfl)
  | unframe => exact ⟨_, rfl, (unframeStep_atMostPopsIn s).fifoStep (.inr (.inl rfl))⟩
  | drain => exact ⟨_, rfl, (drainStep_atMostPopsIn s).fifoStep (.inr (.inr rfl))⟩
  | framed => exact ⟨_, rfl, pushPending_fifoStep (.inl rfl) s⟩
  | join => exact ⟨_, rfl, pushPending_fifoStep (.inr rfl) s⟩
  | bwt => exact same (execBwt_sameFifos s)
  | mtf => exact same (((applyMtfEnc_keepsFifos s).moveTo .rle).settle .mtf)
  | rle => exact same (((applyRleEnc_keepsFifos s).moveTo .entropy).settle .rle)
  | entropy => exact same (execEntropy_sameFifos s)
  | entropyInv => exact same (execEntropyInv_sameFifos s)
  | rleInv => exact same (((applyRleDec_keepsFifos s).moveTo .mtfInv).settle .rleInv)
  | mtfInv => exact same (((applyMtfDec_keepsFifos s).moveTo .bwtInv).settle .mtfInv)
  | bwtInv => exact same (execBwtInv_sameFifos s)
  | bwtFwdExplicit => exact same ((applyBwtFwdExplicit_keepsFifos s).settle .bwt)
  | bwtFwdSentinel => exact same ((applyBwtFwdSentinel_keepsFifos s).settle .bwt)
  | bwtInvExplicit => exact same ((applyBwtInvExplicit_keepsFifos s).settle .bwtInv)
  | bwtInvSentinel => exact same ((applyBwtInvSentinel_keepsFifos s).settle .bwtInv)
  | mtfEnc => exact same ((applyMtfEnc_keepsFifos s).settle .mtf)
  | mtfDec => exact same ((applyMtfDec_keepsFifos s).settle .mtfInv)
  | rleEnc => exact same ((applyRleEnc_keepsFifos s).settle .rle)
  | rleDec => exact same ((applyRleDec_keepsFifos s).settle .rleInv)
  | hufEnc => exact same ((applyHufEnc_keepsFifos s).settle .entropy)
  | hufDec => exact same ((applyHufDec_keepsFifos s).settle .entropyInv)
  | tabParse => exact same ((applyTabParse_keepsFifos s).settle .entropyInv)
  | regRead off => exact ⟨_, rfl, (busRead_sameFifos off s).fifoStep _⟩
  | regWrite off v => exact ⟨_, rfl, busWrite_fifoStep off v s⟩
  | inPush b => exact ⟨_, rfl, hostPush_fifoStep b s⟩
  | outPop => exact ⟨_, rfl, hostPop_fifoStep s⟩
  | reset => exact ⟨_, rfl, .inr (.inr (.inr ⟨rfl, rfl⟩)), .inr (.inr (.inr ⟨rfl, .inr (.inl rfl)⟩))⟩

/-- Settles O58: one case for each instruction; those of the stage functions and the registers leave both FIFOs, and the
ports' operations change them at the ends only. -/
theorem fifosKeepTheirOrder : Obligations.FifosKeepTheirOrder := by
  intro i s t h
  obtain ⟨u, hu, hstep⟩ := exec_fifoStep i s
  obtain rfl : u = t := Host.Outcome.next.inj (hu.symm.trans h)
  exact hstep

end Sys2Proof.Machine
end

section
/-! PROOF. The move-to-front mapper (41_mtf.md R108 to R112). The alphabet stays a permutation of the byte values, so every
byte has one place in it and every rank is a place; encoder and decoder then make the same move at each byte. -/

namespace Sys2Proof.Machine

/-- A permutation of the 256 byte values (10_state.md R51). -/
def IsAlphabet (A : List Byte) : Prop := A.Perm identityAlphabet

theorem isAlphabet_identityAlphabet : IsAlphabet identityAlphabet := .refl _

theorem IsAlphabet.length_eq {A : List Byte} (hA : IsAlphabet A) : A.length = 256 :=
  (List.Perm.length_eq hA).trans identityAlphabet_ok.1

theorem IsAlphabet.nodup {A : List Byte} (hA : IsAlphabet A) : A.Nodup := hA.nodup_iff.mpr identityAlphabet_ok.2

/-- Every byte has a place in the alphabet. -/
theorem IsAlphabet.exists_place {A : List Byte} (hA : IsAlphabet A) (x : Byte) : ∃ i, i < 256 ∧ A[i]? = some x := by
  obtain ⟨i, hi, hx⟩ := List.getElem_of_mem (hA.mem_iff.mpr (mem_identityAlphabet x))
  exact ⟨i, hA.length_eq ▸ hi, List.getElem?_eq_some_iff.mpr ⟨hi, hx⟩⟩

/-- Every rank is a place of the alphabet. -/
theorem IsAlphabet.exists_byte {A : List Byte} (hA : IsAlphabet A) (i : Byte) : ∃ b, A[i.toNat]? = some b :=
  ⟨_, List.getElem?_eq_getElem (hA.length_eq ▸ i.isLt)⟩

theorem IsAlphabet.idxOf_eq {A : List Byte} (hA : IsAlphabet A) {i : Nat} {x : Byte} (h : A[i]? = some x) :
    A.idxOf x = i := by
  obtain ⟨hi, rfl⟩ := List.getElem?_eq_some_iff.mp h
  exact hA.nodup.idxOf_getElem i hi

/-! ### The move -/

theorem moveToFront_eq {A : List Byte} {i : Nat} {x : Byte} (h : A[i]? = some x) :
    moveToFront A i = x :: A.eraseIdx i := by
  simp [moveToFront, List.eraseIdx_eq_take_drop_succ, h]

theorem IsAlphabet.cons_eraseIdx {A : List Byte} (hA : IsAlphabet A) {i : Nat} {x : Byte} (h : A[i]? = some x) :
    IsAlphabet (x :: A.eraseIdx i) := by
  obtain ⟨hi, rfl⟩ := List.getElem?_eq_some_iff.mp h
  exact (List.getElem_cons_eraseIdx_perm hi).trans hA

/-! ### One byte, and the loops over it -/

theorem mtfEncFrom_cons {A : List Byte} (hA : IsAlphabet A) {i : Nat} {x : Byte} (h : A[i]? = some x) (X : List Byte) :
    mtfEncFrom A (x :: X) =
      (BitVec.ofNat 8 i :: (mtfEncFrom (x :: A.eraseIdx i) X).1, (mtfEncFrom (x :: A.eraseIdx i) X).2) := by
  simp only [mtfEncFrom, hA.idxOf_eq h, moveToFront_eq h]

theorem mtfDecFrom_cons {A : List Byte} {i b : Byte} (h : A[i.toNat]? = some b) (Y : List Byte) :
    mtfDecFrom A (i :: Y) =
      (b :: (mtfDecFrom (b :: A.eraseIdx i.toNat) Y).1, (mtfDecFrom (b :: A.eraseIdx i.toNat) Y).2) := by
  simp [mtfDecFrom, moveToFront_eq h, h]

theorem mtfEncFrom_append (A X X' : List Byte) :
    mtfEncFrom A (X ++ X') =
      ((mtfEncFrom A X).1 ++ (mtfEncFrom (mtfEncFrom A X).2 X').1, (mtfEncFrom (mtfEncFrom A X).2 X').2) := by
  induction X generalizing A with
  | nil => rfl
  | cons x X ih => simp [mtfEncFrom, ih]

theorem mtfDecFrom_append (A Y Y' : List Byte) :
    mtfDecFrom A (Y ++ Y') =
      ((mtfDecFrom A Y).1 ++ (mtfDecFrom (mtfDecFrom A Y).2 Y').1, (mtfDecFrom (mtfDecFrom A Y).2 Y').2) := by
  induction Y generalizing A with
  | nil => rfl
  | cons i Y ih => simp [mtfDecFrom, ih]

theorem isAlphabet_mtfEncFrom {A : List Byte} (hA : IsAlphabet A) (X : List Byte) : IsAlphabet (mtfEncFrom A X).2 := by
  induction X generalizing A with
  | nil => exact hA
  | cons x X ih =>
    obtain ⟨i, -, hx⟩ := hA.exists_place x
    rw [mtfEncFrom_cons hA hx]
    exact ih (hA.cons_eraseIdx hx)

theorem isAlphabet_mtfDecFrom {A : List Byte} (hA : IsAlphabet A) (Y : List Byte) : IsAlphabet (mtfDecFrom A Y).2 := by
  induction Y generalizing A with
  | nil => exact hA
  | cons i Y ih =>
    obtain ⟨b, hb⟩ := hA.exists_byte i
    rw [mtfDecFrom_cons hb]
    exact ih (hA.cons_eraseIdx hb)

/-- Encoding one more byte emits its place in the alphabet reached so far, and moves it to the front (41_mtf.md R110). -/
theorem mtfEncFrom_concat {A : List Byte} (hA : IsAlphabet A) (X : List Byte) {i : Nat} {x : Byte}
    (h : (mtfEncFrom A X).2[i]? = some x) :
    mtfEncFrom A (X ++ [x]) =
      ((mtfEncFrom A X).1 ++ [BitVec.ofNat 8 i], x :: (mtfEncFrom A X).2.eraseIdx i) := by
  rw [mtfEncFrom_append, mtfEncFrom_cons (isAlphabet_mtfEncFrom hA X) h, mtfEncFrom]

/-- Decoding one more rank emits the byte at that place, and moves it to the front (41_mtf.md R111). -/
theorem mtfDecFrom_concat (A Y : List Byte) {i b : Byte} (h : (mtfDecFrom A Y).2[i.toNat]? = some b) :
    mtfDecFrom A (Y ++ [i]) = ((mtfDecFrom A Y).1 ++ [b], b :: (mtfDecFrom A Y).2.eraseIdx i.toNat) := by
  rw [mtfDecFrom_append, mtfDecFrom_cons h, mtfDecFrom]

/-- The decoder's alphabet is the encoder's before every byte, so it reads each rank as the byte it stands for. -/
theorem mtfDecFrom_mtfEncFrom {A : List Byte} (hA : IsAlphabet A) (X : List Byte) :
    mtfDecFrom A (mtfEncFrom A X).1 = (X, (mtfEncFrom A X).2) := by
  induction X generalizing A with
  | nil => rfl
  | cons x X ih =>
    obtain ⟨i, hi, hx⟩ := hA.exists_place x
    have hplace : (BitVec.ofNat 8 i).toNat = i := Nat.mod_eq_of_lt hi
    have hrank : A[(BitVec.ofNat 8 i).toNat]? = some x := by rwa [hplace]
    rw [mtfEncFrom_cons hA hx, mtfDecFrom_cons hrank, hplace, ih (hA.cons_eraseIdx hx)]

/-! ### The two functions -/

theorem isAlphabet_mtfEnc (X : List Byte) : IsAlphabet (mtfEnc X).2 := isAlphabet_mtfEncFrom isAlphabet_identityAlphabet X

theorem isAlphabet_mtfDec (Y : List Byte) : IsAlphabet (mtfDec Y).2 := isAlphabet_mtfDecFrom isAlphabet_identityAlphabet Y

/-- Settles O35: the alphabet is a permutation of the byte values after every input, which gives each byte its place and
each rank its byte; the round trip is that of the loops, from the identity alphabet. -/
theorem mtfRoundTripsInSynchrony : Obligations.MtfRoundTripsInSynchrony := by
  refine ⟨⟨rfl, rfl⟩, fun X x => ⟨?place, ?encode⟩, fun Y i => ?decode, ?roundTrip⟩
  case place => exact (isAlphabet_mtfEnc X).exists_place x
  case encode => exact fun i hx => mtfEncFrom_concat isAlphabet_identityAlphabet X hx
  case decode =>
    obtain ⟨b, hb⟩ := (isAlphabet_mtfDec Y).exists_byte i
    exact ⟨b, hb, mtfDecFrom_concat identityAlphabet Y hb⟩
  case roundTrip => exact mtfDecFrom_mtfEncFrom isAlphabet_identityAlphabet

end Sys2Proof.Machine
end

section
/-! PROOF. The run-length coder (42_rle.md R114 to R116). The codes of a sequence are a relation between pair streams and
sequences; RLE_ENC writes one of them, and RLE_DEC reads each of them back. -/

namespace Sys2Proof.Machine

/-- The pair stream R stands for X: each pair (c, v), c not 0, for c bytes v (42_rle.md R115). -/
inductive RleCodes : List Byte → List Byte → Prop
  | nil : RleCodes [] []
  | pair {c : Byte} (v : Byte) {R X : List Byte} (hc : c ≠ 0) (h : RleCodes R X) :
      RleCodes (c :: v :: R) (List.replicate c.toNat v ++ X)

namespace RleCodes

theorem append {R S X Y : List Byte} (hX : RleCodes R X) (hY : RleCodes S Y) : RleCodes (R ++ S) (X ++ Y) := by
  induction hX with
  | nil => exact hY
  | pair v hc _ ih => simpa using ih.pair v hc

theorem single {c : Byte} (v : Byte) (hc : c ≠ 0) : RleCodes [c, v] (List.replicate c.toNat v) := by
  simpa using nil.pair v hc

theorem length_mod_two {R X : List Byte} (h : RleCodes R X) : R.length % 2 = 0 := by
  induction h with
  | nil => rfl
  | pair v hc _ ih => rw [List.length_cons, List.length_cons, Nat.add_assoc, Nat.add_mod_right, ih]

/-- The pair loop finds no count 0 and reads the sequence, if it fits behind the bytes already written. -/
theorem rleDecFrom_eq {R X : List Byte} (h : RleCodes R X) {cap n : Nat} (hcap : n + X.length ≤ cap) :
    rleDecFrom cap n R = .ok X := by
  induction h generalizing n with
  | nil => rfl
  | @pair c v R X hc _ ih =>
    have hlen : n + c.toNat + X.length ≤ cap := by simpa [Nat.add_assoc] using hcap
    rw [rleDecFrom, if_neg hc, if_neg (by omega), ih hlen]

theorem rleDec_eq {R X : List Byte} (h : RleCodes R X) {cap : Nat} (hcap : X.length ≤ cap) : rleDec cap R = .ok X := by
  rw [rleDec, if_neg (by simp [h.length_mod_two]), h.rleDecFrom_eq (by simpa using hcap)]

end RleCodes

/-! ### The pairs of a run -/

/-- The pairs (255, v) of a long run. -/
theorem rleCodes_replicate_255 (k : Nat) (v : Byte) :
    RleCodes (List.replicate k [(255 : Byte), v]).flatten (List.replicate (255 * k) v) := by
  induction k with
  | zero => exact .nil
  | succ k ih =>
    rw [List.replicate_succ, List.flatten_cons, Nat.mul_succ, Nat.add_comm, List.replicate_add]
    exact (RleCodes.single v (by decide)).append ih

/-- The pair of the rest of a run, which is left out where the rest is 0. -/
theorem rleCodes_remainder (r : Nat) (v : Byte) :
    RleCodes (if r % 255 = 0 then [] else [BitVec.ofNat 8 (r % 255), v]) (List.replicate (r % 255) v) := by
  split
  case isTrue h => rw [h]; exact .nil
  case isFalse h =>
    have hcount : (BitVec.ofNat 8 (r % 255)).toNat = r % 255 := Nat.mod_eq_of_lt (by omega)
    have hne : BitVec.ofNat 8 (r % 255) ≠ 0 := fun h0 => h (by rw [← hcount, h0]; rfl)
    simpa only [hcount] using RleCodes.single v hne

theorem rleCodes_runPairs (r : Nat) (v : Byte) : RleCodes (runPairs r v) (List.replicate r v) := by
  have h := (rleCodes_replicate_255 (r / 255) v).append (rleCodes_remainder r v)
  rwa [← List.replicate_add, Nat.div_add_mod] at h

theorem rleCodes_flatMap_runPairs (rs : List (Nat × Byte)) :
    RleCodes (rs.flatMap fun p => runPairs p.1 p.2) (rs.flatMap fun p => List.replicate p.1 p.2) := by
  induction rs with
  | nil => exact .nil
  | cons p rs ih => exact (rleCodes_runPairs p.1 p.2).append ih

/-! ### The maximal runs -/

theorem flatMap_replicate_runs (X : List Byte) : (runs X).flatMap (fun p => List.replicate p.1 p.2) = X := by
  induction X with
  | nil => rfl
  | cons x X ih =>
    rw [runs]
    split
    case h_1 h => simpa [h] using ih
    case h_2 r v rest h =>
      rw [h] at ih
      split
      case isTrue hv => simpa [hv, List.replicate_succ] using ih
      case isFalse => simpa using ih

theorem runs_replicate_succ (n : Nat) (v : Byte) : runs (List.replicate (n + 1) v) = [(n + 1, v)] := by
  induction n with
  | zero => rfl
  | succ n ih => rw [List.replicate_succ, runs, ih]; exact if_pos rfl

/-! ### The two functions -/

theorem rleCodes_rleEnc (X : List Byte) : RleCodes (rleEnc X) X := by
  have h := rleCodes_flatMap_runPairs (runs X)
  rwa [flatMap_replicate_runs] at h

theorem rleEnc_replicate_succ (n : Nat) (v : Byte) : rleEnc (List.replicate (n + 1) v) = runPairs (n + 1) v := by
  simp [rleEnc, runs_replicate_succ]

/-- Settles O36: the encoder writes a code of its input, and the decoder reads every code of a sequence that fits; 300
equal bytes are one run, of 255 and 45. -/
theorem rleRoundTrips : Obligations.RleRoundTrips := by
  refine ⟨fun _ X hcap => (rleCodes_rleEnc X).rleDec_eq hcap, fun v => ?_⟩
  calc rleEnc (List.replicate 300 v)
    _ = runPairs 300 v := rleEnc_replicate_succ 299 v
    _ = [255, v, 45, v] := rfl

end Sys2Proof.Machine
end

section
/-! PROOF. The tree of the merge loop and its paths (43_huffman.md R119 to R121). The queue is kept in its strict order,
which the sequence numbers, all different, make total; so the two entries at its front are the two least. The code map
is exactly the paths of the tree, and every bit string meets a path. -/

namespace Sys2Proof.Machine

/-! ### The order of the queue -/

theorem qBefore_iff (a b : QItem) : qBefore a b = true ↔ a.Before b := by
  simp [qBefore, QItem.Before]

theorem QItem.Before.trans {a b c : QItem} (hab : a.Before b) (hbc : b.Before c) : a.Before c := by
  simp only [QItem.Before] at *
  omega

/-- Of two entries with different sequence numbers, one comes before the other. -/
theorem QItem.before_of_not_before {a b : QItem} (hseq : a.seq ≠ b.seq) (h : ¬a.Before b) : b.Before a := by
  simp only [QItem.Before] at *
  omega

/-- The queue is in its order. -/
def QueueSorted (q : List QItem) : Prop := q.Pairwise QItem.Before

theorem QueueSorted.qInsert {x : QItem} {q : List QItem} (hq : QueueSorted q) (hx : ∀ y ∈ q, x.seq ≠ y.seq) :
    QueueSorted (qInsert x q) := by
  induction q with
  | nil => exact List.pairwise_singleton _ _
  | cons y ys ih =>
    obtain ⟨hy, hys⟩ := List.pairwise_cons.mp hq
    obtain ⟨hxy, hxys⟩ := List.forall_mem_cons.mp hx
    rw [Machine.qInsert]
    split
    case isTrue hb =>
      have hbefore := (qBefore_iff x y).mp hb
      exact hq.cons (List.forall_mem_cons.mpr ⟨hbefore, fun z hz => hbefore.trans (hy z hz)⟩)
    case isFalse hb =>
      have hbefore := QItem.before_of_not_before hxy fun h => hb ((qBefore_iff x y).mpr h)
      refine (ih hys hxys).cons fun z hz => ?_
      obtain rfl | hz := List.mem_cons.mp ((qInsert_perm x ys).mem_iff.mp hz)
      · exact hbefore
      · exact hy z hz

/-- Inserting entries with different sequence numbers one after the other gives a queue in order. -/
theorem QueueSorted.foldl_qInsert {α : Type} (f : α → QItem) {l : List α} {q : List QItem} (hq : QueueSorted q)
    (hl : (l.map fun a => (f a).seq).Nodup) (hlq : ∀ a ∈ l, ∀ y ∈ q, (f a).seq ≠ y.seq) :
    QueueSorted (l.foldl (fun q a => Machine.qInsert (f a) q) q) := by
  induction l generalizing q with
  | nil => exact hq
  | cons a l ih =>
    obtain ⟨ha, hl⟩ := List.nodup_cons.mp hl
    obtain ⟨haq, hlq⟩ := List.forall_mem_cons.mp hlq
    refine ih (hq.qInsert haq) hl fun b hb y hy => ?_
    obtain rfl | hy := List.mem_cons.mp ((qInsert_perm (f a) q).mem_iff.mp hy)
    · exact fun h => ha (List.mem_map.mpr ⟨b, hb, h⟩)
    · exact hlq b hb y hy

theorem queueSorted_initialQueue (X : List Byte) : QueueSorted (initialQueue X) := by
  refine QueueSorted.foldl_qInsert _ List.Pairwise.nil ?_ fun _ _ _ h => absurd h List.not_mem_nil
  change ((symbols X).zipIdx.map Prod.snd).Nodup
  rw [List.zipIdx_map_snd]
  exact List.nodup_range'

/-- The sequence numbers of the leaves are below the number of symbols. -/
theorem seq_lt_of_mem_initialQueue {X : List Byte} {x : QItem} (hx : x ∈ initialQueue X) :
    x.seq < (symbols X).length := by
  obtain ⟨p, hp, rfl⟩ := List.mem_map.mp ((initialQueue_perm X).mem_iff.mp hx)
  simpa using List.snd_lt_of_mem_zipIdx hp

/-! ### The merge loop -/

/-- The merge loop does not depend on how the queue is listed. -/
theorem MergesTo.of_perm {seq : Nat} {p q : List QItem} {t : Tree} (h : MergesTo seq q t) (hpq : p.Perm q) :
    MergesTo seq p t := by
  cases h with
  | root _ x =>
    rw [List.perm_singleton.mp hpq]
    exact .root seq x
  | merge _ _ rest a b _ perm first second next =>
    exact .merge seq p rest a b t (hpq.trans perm) first second next

/-- On a queue in order whose sequence numbers are used up, the merge loop of the model takes the two least entries at
each turn (43_huffman.md R119). -/
theorem mergesTo_of_mergeQueue {n seq : Nat} {q : List QItem} {x : QItem} (hq : QueueSorted q)
    (hseq : ∀ y ∈ q, y.seq < seq) (h : mergeQueue n seq q = [x]) : MergesTo seq q x.tree := by
  fun_induction mergeQueue n seq q with
  | case1 n seq a b rest ih =>
    obtain ⟨ha, hbrest⟩ := List.pairwise_cons.mp hq
    obtain ⟨hb, hrest⟩ := List.pairwise_cons.mp hbrest
    have hold : ∀ y ∈ rest, y.seq < seq := fun y hy => hseq y (by simp [hy])
    have hperm := qInsert_perm ⟨a.weight + b.weight, seq, .node a.tree b.tree⟩ rest
    have hnext := ih (QueueSorted.qInsert hrest fun y hy => (hold y hy).ne') (fun y hy => ?_) h
    · exact .merge seq _ rest a b _ (.refl _) ha hb (hnext.of_perm hperm.symm)
    · obtain rfl | hy := List.mem_cons.mp (hperm.mem_iff.mp hy)
      · exact seq.lt_succ_self
      · exact (hold y hy).trans seq.lt_succ_self
  | case2 =>
    subst h
    exact .root _ x

/-- The tree of HUF_BUILD is the one the merge loop reaches from the leaves (43_huffman.md R119). -/
theorem mergesTo_of_hufBuild {X : List Byte} {t : Tree} (h : hufBuild X = some t) :
    MergesTo (symbols X).length ((symbols X).zipIdx.map fun p => ⟨freq X p.1, p.2, .leaf p.1⟩) t := by
  obtain ⟨x, hx, rfl⟩ := Option.map_eq_some_iff.mp h
  have hone : mergeQueue (symbols X).length (symbols X).length (initialQueue X) = [x] := by
    have hq : initialQueue X ≠ [] := fun hnil => by simp [hnil, mergeQueue] at hx
    have hlen : (initialQueue X).length = (symbols X).length := by simp [(initialQueue_perm X).length_eq]
    obtain ⟨y, hy, -⟩ := mergeQueue_spec _ (symbols X).length _ hq (hlen.trans_le (Nat.le_succ _))
    rw [hy] at hx ⊢
    exact congrArg ([·]) (Option.some.inj hx)
  exact (mergesTo_of_mergeQueue (queueSorted_initialQueue X) (fun _ => seq_lt_of_mem_initialQueue) hone).of_perm
    (initialQueue_perm X).symm

/-! ### The paths of the tree -/

/-- Every bit string begins a path to a leaf or begins with one. -/
theorem Tree.exists_leafAt_prefix (t : Tree) (w : Bits) :
    ∃ s u, t.leafAt u = some s ∧ (w <+: u ∨ u <+: w) := by
  induction t generalizing w with
  | leaf s => exact ⟨s, [], rfl, .inr List.nil_prefix⟩
  | node l r ihl ihr =>
    match w with
    | [] =>
      obtain ⟨s, u, hu, -⟩ := ihl []
      exact ⟨s, false :: u, hu, .inl List.nil_prefix⟩
    | false :: w =>
      obtain ⟨s, u, hu, hw⟩ := ihl w
      exact ⟨s, false :: u, hu, by simpa using hw⟩
    | true :: w =>
      obtain ⟨s, u, hu, hw⟩ := ihr w
      exact ⟨s, true :: u, hu, by simpa using hw⟩

theorem symbols_nodup (X : List Byte) : (symbols X).Nodup :=
  (symbols_pairwise_lt X).imp fun h => by
    rintro rfl
    exact h.false

/-- Where the keys of a map are all different, a symbol's code is the one it stands with. -/
theorem codeOf_eq_of_mem {c : Codes} (hc : (c.map Prod.fst).Nodup) {s : Byte} {w : Bits} (h : (s, w) ∈ c) :
    codeOf c s = w :=
  congrArg Prod.snd (List.inj_on_of_nodup_map hc (codeOf_mem (List.mem_map_of_mem h)) h rfl)

/-- With two symbols or more, the code map is the paths of the tree of HUF_BUILD (43_huffman.md R120). -/
theorem exists_tree_of_two_symbols {X : List Byte} (htwo : 2 ≤ (symbols X).length) :
    ∃ t, hufBuild X = some t ∧ t.leaves.Perm (symbols X) ∧
      ∀ s w, (s, w) ∈ buildCodes X ↔ t.leafAt w = some s := by
  obtain ⟨hS, -⟩ | ⟨s, hS, -⟩ | ⟨t, ht, hleaves, -, h⟩ := buildCodes_cases X
  · simp [hS] at htwo
  · simp [hS] at htwo
  · refine ⟨t, ht, hleaves, fun s w => ⟨fun he => leafAt_of_mem_buildCodes hleaves h he, fun hw => ?_⟩⟩
    have hmem : (s, w) ∈ treeCodes t [] := (mem_treeCodes t [] s w).mpr ⟨w, rfl, hw⟩
    have hkeys : ((treeCodes t []).map Prod.fst).Perm (symbols X) := by rwa [map_fst_treeCodes]
    have hs : s ∈ symbols X := hkeys.mem_iff.mp (List.mem_map_of_mem hmem)
    rw [h, List.mem_map]
    exact ⟨s, hs, by rw [codeOf_eq_of_mem (hkeys.nodup_iff.mpr (symbols_nodup X)) hmem]⟩

theorem buildCodes_of_one_symbol {X : List Byte} {s : Byte} (hS : symbols X = [s]) : buildCodes X = [(s, [false])] := by
  simp [buildCodes, hS]

/-- A code has at most one bit less than there are symbols, and one bit where there is one symbol (43_huffman.md
R121). -/
theorem length_code_le_max {X : List Byte} {e : Byte × Bits} (he : e ∈ buildCodes X) :
    e.2.length ≤ max 1 ((symbols X).length - 1) := by
  by_cases htwo : 2 ≤ (symbols X).length
  · obtain ⟨t, -, hleaves, hmem⟩ := exists_tree_of_two_symbols htwo
    have hlt := Tree.length_lt_of_leafAt ((hmem e.1 e.2).mp he)
    rw [hleaves.length_eq] at hlt
    omega
  · have hkey : e.1 ∈ symbols X := by
      rw [← map_fst_buildCodes]
      exact List.mem_map_of_mem he
    have hpos := List.length_pos_of_mem hkey
    obtain ⟨s, hS⟩ := List.length_eq_one_iff.mp (show (symbols X).length = 1 by omega)
    obtain rfl : e = (s, [false]) := by simpa [buildCodes_of_one_symbol hS] using he
    simp

/-- With two symbols or more the code is complete (43_huffman.md R121). -/
theorem exists_code_prefix {X : List Byte} (htwo : 2 ≤ (symbols X).length) (w : Bits) :
    ∃ e ∈ buildCodes X, w <+: e.2 ∨ e.2 <+: w := by
  obtain ⟨t, -, -, hmem⟩ := exists_tree_of_two_symbols htwo
  obtain ⟨s, u, hu, hw⟩ := t.exists_leafAt_prefix w
  exact ⟨(s, u), (hmem s u).mpr hu, hw⟩

/-- Settles O38: the queue stays in order, so each merge takes the two least entries; the codes are the paths of the
tree that is left, no path goes on to another, each is shorter than the number of leaves, and every bit string meets one. -/
theorem huffmanCodesArePrefixFree : Obligations.HuffmanCodesArePrefixFree := by
  intro X
  refine ⟨fun s => (mem_symbols X s).trans List.count_pos_iff.symm, symbols_pairwise_lt X,
    fun s => buildCodes_of_one_symbol, fun htwo => ?tree, map_fst_buildCodes X, (buildCodes_legal X).prefixFree,
    fun e he => ?bounds, fun htwo w => ?complete⟩
  case tree =>
    obtain ⟨t, ht, -, hmem⟩ := exists_tree_of_two_symbols htwo
    exact ⟨t, mergesTo_of_hufBuild ht, hmem⟩
  case bounds =>
    obtain ⟨hpos, hle⟩ := length_code_buildCodes X e he
    exact ⟨hpos, hle, length_code_le_max he⟩
  case complete =>
    simpa only [List.isPrefixOf_iff_prefix] using exists_code_prefix htwo w

end Sys2Proof.Machine
end

section
/-! PROOF. The engine steps of the stages that transform the block (44_pipeline.md R134 to R138, R141 to R144): what each
stage function leaves in the buffers, passing and failing, and then what the stage that applies it answers. -/

namespace Sys2Proof.Machine

/-! ### The stage functions on the buffers -/

theorem bwtFwdSentinel_of_no_zero {B : List Byte} (h : B.count 0 = 0) :
    bwtFwdSentinel B = .ok (lastColumn (B ++ [0])) := if_neg h.not_gt

theorem bwtFwdSentinel_of_zero {B : List Byte} (h : 0 < B.count 0) :
    bwtFwdSentinel B = .error .sentinelCollision := if_pos h

theorem applyBwtFwdSentinel_of_ok {s : State} {L : List Byte} (h : bwtFwdSentinel s.blk = .ok L) :
    s.applyBwtFwdSentinel = .ok { s with colL := L } := by
  rw [State.applyBwtFwdSentinel, h]

theorem applyBwtFwdSentinel_of_error {s : State} {k : ErrKind} (h : bwtFwdSentinel s.blk = .error k) :
    s.applyBwtFwdSentinel = .error k := by
  rw [State.applyBwtFwdSentinel, h]

theorem applyTabParse_of_ok {s : State} {c : Codes} (h : tabParse s.tab = .ok c) :
    s.applyTabParse = .ok { s with codes := c } := by
  rw [State.applyTabParse, h]

theorem applyTabParse_of_error {s : State} {k : ErrKind} (h : tabParse s.tab = .error k) :
    s.applyTabParse = .error k := by
  rw [State.applyTabParse, h]

theorem applyHufDec_of_ok {s : State} {R : List Byte} (h : hufDec s.codes (capR s.cfg s.mode) s.pay = .ok R) :
    s.applyHufDec = .ok { s with pairR := R } := by
  rw [State.applyHufDec, h]

theorem applyHufDec_of_error {s : State} {k : ErrKind} (h : hufDec s.codes (capR s.cfg s.mode) s.pay = .error k) :
    s.applyHufDec = .error k := by
  rw [State.applyHufDec, h]

theorem applyRleDec_of_ok {s : State} {M : List Byte} (h : rleDec (capL s.cfg s.mode) s.pairR = .ok M) :
    s.applyRleDec = .ok { s with rankM := M } := by
  rw [State.applyRleDec, h]

theorem applyRleDec_of_error {s : State} {k : ErrKind} (h : rleDec (capL s.cfg s.mode) s.pairR = .error k) :
    s.applyRleDec = .error k := by
  rw [State.applyRleDec, h]

theorem applyBwtInvExplicit_of_ok {s : State} {B : List Byte} (h : bwtInvExplicit s.colL s.pidx.toNat = .ok B) :
    s.applyBwtInvExplicit = .ok { s with blk := B } := by
  rw [State.applyBwtInvExplicit, h]

theorem applyBwtInvExplicit_of_error {s : State} {k : ErrKind} (h : bwtInvExplicit s.colL s.pidx.toNat = .error k) :
    s.applyBwtInvExplicit = .error k := by
  rw [State.applyBwtInvExplicit, h]

theorem applyBwtInvSentinel_of_ok {s : State} {B : List Byte} (h : bwtInvSentinel s.colL = .ok B) :
    s.applyBwtInvSentinel = .ok { s with blk := B } := by
  rw [State.applyBwtInvSentinel, h]

theorem applyBwtInvSentinel_of_error {s : State} {k : ErrKind} (h : bwtInvSentinel s.colL = .error k) :
    s.applyBwtInvSentinel = .error k := by
  rw [State.applyBwtInvSentinel, h]

/-! ### The stages that apply them -/

/-- A stage whose function passes answers the result, at the next stage (44_pipeline.md section 3). -/
theorem settle_moveTo_ok (s t : State) (S S' : Stage) : s.settle S (moveTo S' (.ok t)) = .next (t.setStage S') := rfl

/-- A stage whose function fails answers error entry (60_exceptions.md R172). -/
theorem settle_moveTo_error (s : State) (S S' : Stage) (k : ErrKind) :
    s.settle S (moveTo S' (.error k)) = .next (s.raise k S) := rfl

theorem exec_bwt_explicitIndex {s : State} (h : s.mode = .explicitIndex) :
    exec .bwt s = s.settle .bwt (moveTo .mtf s.applyBwtFwdExplicit) := by
  simp only [exec, execBwt, h]

theorem exec_bwt_sentinel {s : State} (h : s.mode = .sentinel) :
    exec .bwt s = s.settle .bwt (moveTo .mtf s.applyBwtFwdSentinel) := by
  simp only [exec, execBwt, h]

theorem exec_mtf (s : State) : exec .mtf s = s.settle .mtf (moveTo .rle s.applyMtfEnc) := rfl

theorem exec_rle (s : State) : exec .rle s = s.settle .rle (moveTo .entropy s.applyRleEnc) := rfl

/-- The index stands in a frame of EXPLICIT_INDEX mode only (44_pipeline.md R138; 30_encoding.md R82, R83). -/
theorem frameBytes_eq (m : Mode) (p : Word) (tab pay : List Byte) :
    frameBytes m p tab pay = (if m = .explicitIndex then be32 p.toNat else [])
      ++ be32 tab.length ++ tab ++ be32 pay.length ++ pay := by
  cases m <;> rfl

theorem exec_entropy (s : State) :
    exec .entropy s = .next { s with
      codes := buildCodes s.pairR
      tab := (hufEnc s.pairR).1
      pay := (hufEnc s.pairR).2
      pend := frameBytes s.mode s.pidx (hufEnc s.pairR).1 (hufEnc s.pairR).2
      stage := .framed } := rfl

/-- With the table parsed, ENTROPY_INV is HUF_DEC from the state that holds its code map (44_pipeline.md R141). -/
theorem exec_entropyInv_of_table {s : State} {c : Codes} (h : tabParse s.tab = .ok c) :
    exec .entropyInv s = State.settle .entropyInv { s with codes := c }
      (moveTo .rleInv (State.applyHufDec { s with codes := c })) := by
  rw [exec, execEntropyInv, applyTabParse_of_ok h]

theorem exec_entropyInv_of_no_table {s : State} {k : ErrKind} (h : tabParse s.tab = .error k) :
    exec .entropyInv s = .next (s.raise k .entropyInv) := by
  rw [exec, execEntropyInv, applyTabParse_of_error h]

theorem exec_rleInv (s : State) : exec .rleInv s = s.settle .rleInv (moveTo .mtfInv s.applyRleDec) := rfl

theorem exec_mtfInv (s : State) : exec .mtfInv s = s.settle .mtfInv (moveTo .bwtInv s.applyMtfDec) := rfl

/-- Where the function of the latched mode passes, BWT_INV queues its block for JOIN (44_pipeline.md R144). -/
theorem exec_bwtInv_of_ok {s t : State}
    (h : (s.mode = .explicitIndex ∧ s.applyBwtInvExplicit = .ok t) ∨ (s.mode = .sentinel ∧ s.applyBwtInvSentinel = .ok t)) :
    exec .bwtInv s = .next (t.queueBlock.setStage .join) := by
  obtain ⟨hmode, happly⟩ | ⟨hmode, happly⟩ := h <;>
    simp only [exec, execBwtInv, hmode, happly, settle_moveTo_ok]

/-- Where the function of the latched mode fails, BWT_INV is error entry (44_pipeline.md R144; 60_exceptions.md R172). -/
theorem exec_bwtInv_of_error {s : State} {k : ErrKind}
    (h : (s.mode = .explicitIndex ∧ s.applyBwtInvExplicit = .error k) ∨
      (s.mode = .sentinel ∧ s.applyBwtInvSentinel = .error k)) :
    exec .bwtInv s = .next (s.raise k .bwtInv) := by
  obtain ⟨hmode, happly⟩ | ⟨hmode, happly⟩ := h <;>
    simp only [exec, execBwtInv, hmode, happly, settle_moveTo_error]

/-- Settles O16: BWT splits on the mode and, in SENTINEL mode, on a 0x00 in the block; MTF, RLE and ENTROPY cannot
fail, and the frame of ENTROPY splits on the mode. -/
theorem compressStagesTransformTheBlock : Obligations.CompressStagesTransformTheBlock := by
  refine ⟨fun s hmode => ?bwtExplicit, fun s hmode hzero => ?bwtSentinel, fun s hmode hzero => ?bwtCollision,
    fun s => ?mtf, fun s => ?rle, fun s => ?entropy⟩
  case bwtExplicit => rw [exec_bwt_explicitIndex hmode]; rfl
  case bwtSentinel =>
    rw [exec_bwt_sentinel hmode, applyBwtFwdSentinel_of_ok (bwtFwdSentinel_of_no_zero hzero), settle_moveTo_ok]
    rfl
  case bwtCollision =>
    rw [exec_bwt_sentinel hmode, applyBwtFwdSentinel_of_error (bwtFwdSentinel_of_zero hzero), settle_moveTo_error]
  case mtf => rw [exec_mtf]; rfl
  case rle => rw [exec_rle]; rfl
  case entropy => rw [exec_entropy, frameBytes_eq]

/-- Settles O21: each stage splits on whether its functions pass; a HUF_DEC that fails keeps the parsed code map, which
is no more than a buffer. -/
theorem decompressStagesInvertTheBlock : Obligations.DecompressStagesInvertTheBlock := by
  refine ⟨fun s c htab => ⟨fun R hdec => ?decoded, fun k hdec => ?badPayload⟩, fun s k => exec_entropyInv_of_no_table,
    fun s M hdec => ?rlePasses, fun s k hdec => ?rleFails, fun s => ?mtf, fun s B hinv => ?bwtPasses,
    fun s k hinv => exec_bwtInv_of_error
      (hinv.imp (And.imp_right applyBwtInvExplicit_of_error) (And.imp_right applyBwtInvSentinel_of_error))⟩
  case decoded =>
    rw [exec_entropyInv_of_table htab, applyHufDec_of_ok hdec, settle_moveTo_ok]
    rfl
  case badPayload =>
    rw [exec_entropyInv_of_table htab, applyHufDec_of_error hdec, settle_moveTo_error]
    exact ⟨_, rfl, rfl⟩
  case rlePasses =>
    rw [exec_rleInv, applyRleDec_of_ok hdec, settle_moveTo_ok]
    rfl
  case rleFails => rw [exec_rleInv, applyRleDec_of_error hdec, settle_moveTo_error]
  case mtf => rw [exec_mtfInv]; rfl
  case bwtPasses =>
    rw [exec_bwtInv_of_ok
      (hinv.imp (And.imp_right applyBwtInvExplicit_of_ok) (And.imp_right applyBwtInvSentinel_of_ok))]
    rfl

end Sys2Proof.Machine
end

section
/-! PROOF. NOP, and the register reads (45_commands.md R156, R161). STATUS is put together from shifted fields; that the
layout on numbers gives the same word is shown field by field. -/

namespace Sys2Proof.Machine

/-! ### NOP -/

/-- NOP answers the state it is given (45_commands.md R156). -/
theorem exec_nop (s : State) : exec .nop s = .next s := rfl

/-- Settles O2: the CMD value 0 is the row of NOP, whose meaning has no condition on BUSY. -/
theorem nopChangesNothing : Obligations.NopChangesNothing := ⟨rfl, exec_nop⟩

/-! ### The STATUS word -/

/-- A field of a register word, shifted as a word or as a number. -/
theorem setWidth_shiftLeft_eq_ofNat {w : Nat} (x : BitVec w) (k : Nat) :
    x.setWidth 32 <<< k = BitVec.ofNat 32 (x.toNat <<< k) :=
  BitVec.eq_of_toNat_eq (by simp [Nat.shiftLeft_eq])

theorem bitAt_eq_ofNat (b : Bool) (k : Nat) : bitAt b k = BitVec.ofNat 32 (b.toNat <<< k) := by
  rw [bitAt, setWidth_shiftLeft_eq_ofNat, BitVec.toNat_ofBool]

theorem State.statusWord_eq_ofNat (s : State) :
    s.statusWord = BitVec.ofNat 32
      (s.busy.toNat ||| s.done.toNat <<< 1 ||| s.err.toNat <<< 2 ||| s.cmdErr.toNat <<< 3 |||
        s.aborted.toNat <<< 4 ||| s.stage.code.toNat <<< 8 ||| s.op.bit.toNat <<< 12 |||
        s.mode.bit.toNat <<< 13 ||| s.irq.toNat <<< 14) := by
  simp only [State.statusWord, bitAt_eq_ofNat, setWidth_shiftLeft_eq_ofNat, BitVec.ofNat_or, Nat.shiftLeft_zero]

/-! ### The register reads -/

/-- A read at an aligned offset answers what the register there holds, and changes nothing of CORE. -/
theorem exec_regRead_of_readReg {s : State} {off : BitVec 6} {v : Word} (hoff : alignedOffset off = true)
    (hreg : s.readReg off = v) : exec (.regRead off) s = .next { s with resp := .data v } :=
  hreg ▸ congrArg Host.Outcome.next (s.busRead_aligned off hoff)

/-- Settles O7: the sixteen offsets are aligned; each register is read as it stands, and STATUS by its layout. -/
theorem registerReadsReturnTheRegister : Obligations.RegisterReadsReturnTheRegister := by
  intro s
  refine ⟨?_, ?_, ?_, ?_, ?_, ?status, ?_, ?_, ?_, ?_, ?_, ?_, ?_, ?_, ?_, ?_⟩
  case status => exact exec_regRead_of_readReg rfl s.statusWord_eq_ofNat
  all_goals exact exec_regRead_of_readReg rfl rfl

end Sys2Proof.Machine
end

section
/-! PROOF. The interrupt (60_exceptions.md R175). STATUS is read at bit 14, where of its fields only IRQ stands. -/

namespace Sys2Proof.Machine

theorem State.irq_iff (s : State) :
    s.irq = true ↔ (s.ctrl.getLsbD 1 = true ∧ s.done = true) ∨ (s.ctrl.getLsbD 2 = true ∧ s.err = true) := by
  simp only [State.irq, State.ieDone, State.ieErr, Bool.or_eq_true, Bool.and_eq_true]

theorem bitAt_getLsbD (b : Bool) {k j : Nat} (hj : j < 32) : (bitAt b k).getLsbD j = (decide (j = k) && b) := by
  rw [bitAt, BitVec.getLsbD_shiftLeft, BitVec.getLsbD_setWidth, BitVec.getLsbD_ofBool]
  grind

/-- Bit 14 is no other flag's place, and the four bits of STAGE end at 11 (10_state.md R35). -/
theorem State.statusWord_getLsbD_14 (s : State) : s.statusWord.getLsbD 14 = s.irq := by
  have bit (b : Bool) (k : Nat) : (bitAt b k).getLsbD 14 = (decide (14 = k) && b) := bitAt_getLsbD b (by decide)
  simp [-BitVec.getLsbD_eq_getElem, State.statusWord, bit]

/-- Settles O11: CMD_ERR and ABORTED are no operands of IRQ, so the level is the same whatever they are. -/
theorem interruptIsALevelOfTwoSources : Obligations.InterruptIsALevelOfTwoSources :=
  fun s => ⟨s.irq_iff, s.statusWord_getLsbD_14, fun _ _ => rfl⟩

end Sys2Proof.Machine
end

section
/-! PROOF. ERR and the errored latch (60_exceptions.md R174). Each operation is said to keep both, to be error entry, or to
clear ERR; the kinds a stage function can raise are read off the function, and every instruction is then one of these. -/

namespace Sys2Proof.Machine

/-- ERR and `st.errored` as they were. -/
def SameErr (s t : State) : Prop := t.err = s.err ∧ t.errored = s.errored

/-- `t` is the error entry of a row of the error table that names `i`, at the block of `s` (60_exceptions.md R170, R172). -/
def ErrEntry (i : Instr) (s t : State) : Prop :=
  ∃ u k S, (i, k, S) ∈ raiseTable ∧ u.blockCount = s.blockCount ∧ t = State.raise k S u

/-- The instructions that may clear ERR in the state `s`: RESET, a W1C with bit 2, the start of a command
(60_exceptions.md R174). -/
def MayClearErr (i : Instr) (s : State) : Prop :=
  i = .reset ∨ (∃ v, i = .regWrite 0x14 v ∧ v.getLsbD 2 = true) ∨
    (s.busy = false ∧ (i = .compress ∨ i = .decompress ∨ ∃ v, i = .regWrite 0x10 v ∧ (v.toNat = 1 ∨ v.toNat = 2)))

/-- ERR is 0, and the errored latch is not set on the way. -/
def ErrCleared (s t : State) : Prop := t.err = false ∧ (t.errored = true → s.errored = true)

/-- What an instruction may do to ERR and the errored latch. -/
def ErrStep (i : Instr) (s t : State) : Prop := SameErr s t ∨ ErrEntry i s t ∨ (MayClearErr i s ∧ ErrCleared s t)

/-- A stage function that ends in a result keeps ERR and the latch; else it fails with one of the kinds `ks`. -/
def RaisesOnly (ks : List ErrKind) (s : State) : Except ErrKind State → Prop
  | .ok t => SameErr s t
  | .error k => k ∈ ks

theorem SameErr.refl (s : State) : SameErr s s := ⟨rfl, rfl⟩

theorem SameErr.ite {s t u : State} {p : Prop} [Decidable p] (ht : SameErr s t) (hu : SameErr s u) :
    SameErr s (if p then t else u) := by
  split
  · exact ht
  · exact hu

/-! ### The host's operations -/

/-- COMPRESS and DECOMPRESS touch ERR only as the start of a command, with BUSY = 0 (45_commands.md R155). -/
theorem startOrRefuse_err (o : Op) (s : State) :
    SameErr s (s.startOrRefuse o) ∨ (s.busy = false ∧ ErrCleared s (s.startOrRefuse o)) := by
  cases hbusy : s.busy with
  | true => exact .inl (by rw [s.startOrRefuse_busy o hbusy]; exact ⟨rfl, rfl⟩)
  | false => exact .inr ⟨rfl, by rw [s.startOrRefuse_idle o hbusy]; exact ⟨rfl, nofun⟩⟩

theorem startOrRefuse_errStep (o : Op) (s : State) {i : Instr} (hi : s.busy = false → MayClearErr i s) :
    ErrStep i s (s.startOrRefuse o) :=
  (startOrRefuse_err o s).imp_right fun ⟨hbusy, hclear⟩ => .inr ⟨hi hbusy, hclear⟩

theorem abort_sameErr (s : State) : SameErr s s.abort := by
  rw [State.abort]
  exact .ite ⟨rfl, rfl⟩ ⟨rfl, rfl⟩

/-- A CMD write touches ERR only as the command it starts. -/
theorem commandWrite_errStep (v : Word) (s : State) : ErrStep (.regWrite 0x10 v) s (s.commandWrite v) := by
  have start (hv : v.toNat = 1 ∨ v.toNat = 2) (hbusy : s.busy = false) : MayClearErr (.regWrite 0x10 v) s :=
    .inr (.inr ⟨hbusy, .inr (.inr ⟨v, rfl, hv⟩)⟩)
  obtain ⟨-, h⟩ | ⟨h1, h⟩ | ⟨h2, h⟩ | ⟨-, h⟩ | ⟨-, h⟩ := s.commandWrite_cases v <;> rw [h]
  · exact .inl (SameErr.refl s)
  · exact startOrRefuse_errStep _ s (start (.inl h1))
  · exact startOrRefuse_errStep _ s (start (.inr h2))
  · exact .inl (abort_sameErr s)
  · exact .inl ⟨rfl, rfl⟩

/-- A STATUS write clears ERR where bit 2 of the value is 1, and else keeps it (45_commands.md R162). -/
theorem w1c_errStep (v : Word) (s : State) : ErrStep (.regWrite 0x14 v) s (s.w1c v) := by
  cases hv : v.getLsbD 2 with
  | true => exact .inr (.inr ⟨.inr (.inl ⟨v, rfl, hv⟩), by simp only [State.w1c, hv, Bool.not_true, Bool.and_false], id⟩)
  | false => exact .inl ⟨by simp only [State.w1c, hv, Bool.not_false, Bool.and_true], rfl⟩

theorem writeReg_errStep (off : BitVec 6) (v : Word) (s : State) : ErrStep (.regWrite off v) s (s.writeReg off v) := by
  obtain ⟨-, h⟩ | ⟨-, -, -, h⟩ | ⟨-, h⟩ | ⟨hoff, h⟩ | ⟨hoff, h⟩ | h := s.writeReg_cases off v <;> rw [h]
  case inr.inr.inr.inl => rw [hoff]; exact commandWrite_errStep v s
  case inr.inr.inr.inr.inl => rw [hoff]; exact w1c_errStep v s
  all_goals exact .inl ⟨rfl, rfl⟩

theorem ErrStep.setResp {i : Instr} {s t : State} (h : ErrStep i s t) (r : Response) : ErrStep i s (t.setResp r) :=
  h.imp id (Or.imp_left fun ⟨u, k, S, hrow, hblock, ht⟩ => ⟨u.setResp r, k, S, hrow, hblock, by rw [ht]; rfl⟩)

theorem busWrite_errStep (off : BitVec 6) (v : Word) (s : State) : ErrStep (.regWrite off v) s (s.busWrite off v) := by
  rw [State.busWrite]
  split
  · exact (writeReg_errStep off v s).setResp .done
  · exact .inl ⟨rfl, rfl⟩

theorem busRead_sameErr (off : BitVec 6) (s : State) : SameErr s (s.busRead off) := by
  rw [State.busRead]
  exact .ite ⟨rfl, rfl⟩ ⟨rfl, rfl⟩

theorem hostPush_sameErr (b : Byte) (s : State) : SameErr s (s.hostPush b) := by
  obtain ⟨-, h⟩ | ⟨-, h⟩ := s.hostPush_cases b <;> rw [h] <;> exact ⟨rfl, rfl⟩

theorem hostPop_sameErr (s : State) : SameErr s s.hostPop := by
  obtain ⟨-, h⟩ | ⟨b, rest, -, h⟩ := s.hostPop_cases <;> rw [h] <;> exact ⟨rfl, rfl⟩

/-! ### The stages at the ports -/

theorem execSplit_sameErr (s : State) : ∃ t, execSplit s = .next t ∧ SameErr s t := by
  obtain ⟨b, rest, -, -, -, h⟩ | ⟨-, -, -, h⟩ | ⟨-, h⟩ := execSplit_cases s <;> exact ⟨_, h, rfl, rfl⟩

theorem pushPending_sameErr (s : State) : SameErr s s.pushPending := by
  obtain ⟨-, h⟩ | ⟨b, rest, -, -, h⟩ | ⟨-, -, h⟩ := s.pushPending_cases <;> rw [h] <;> exact ⟨rfl, rfl⟩

theorem drainStep_sameErr (s : State) : SameErr s s.drainStep := by
  obtain ⟨-, h⟩ | ⟨b, rest, -, -, h⟩ | ⟨-, -, h⟩ := s.drainStep_cases <;> rw [h] <;> exact ⟨rfl, rfl⟩

theorem takeFieldByte_sameErr (s : State) : SameErr s s.takeFieldByte := by
  obtain ⟨-, h⟩ | ⟨b, rest, -, h⟩ := s.takeFieldByte_cases <;> rw [h] <;> exact ⟨rfl, rfl⟩

theorem takeTabByte_sameErr (s : State) : SameErr s s.takeTabByte := by
  obtain ⟨-, h⟩ | ⟨b, rest, -, h⟩ := s.takeTabByte_cases <;> rw [h] <;> exact ⟨rfl, rfl⟩

theorem takePayByte_sameErr (s : State) : SameErr s s.takePayByte := by
  obtain ⟨-, h⟩ | ⟨b, rest, -, h⟩ := s.takePayByte_cases <;> rw [h] <;> exact ⟨rfl, rfl⟩

theorem raise_errStep {i : Instr} {k : ErrKind} {S : Stage} (hrow : (i, k, S) ∈ raiseTable) (s : State) :
    ErrStep i s (s.raise k S) :=
  .inr (.inl ⟨s, k, S, hrow, rfl, rfl⟩)

theorem ErrStep.ite {i : Instr} {s t u : State} {p : Prop} [Decidable p] (ht : ErrStep i s t) (hu : ErrStep i s u) :
    ErrStep i s (if p then t else u) := by
  split
  · exact ht
  · exact hu

theorem checkFour_errStep (f : FrameField) (s : State) : ErrStep .unframe s (s.checkFour f) :=
  .ite (raise_errStep (by decide) s) (.inl ⟨rfl, rfl⟩)

theorem checkTabLen_errStep (s : State) : ErrStep .unframe s s.checkTabLen :=
  .ite (raise_errStep (by decide) s) (.ite (raise_errStep (by decide) s) (.inl ⟨rfl, rfl⟩))

theorem checkPayLen_errStep (s : State) : ErrStep .unframe s s.checkPayLen :=
  .ite (raise_errStep (by decide) s) (.ite (raise_errStep (by decide) s) (.inl ⟨rfl, rfl⟩))

/-- UNFRAME raises in the checks of its length fields only (44_pipeline.md R140). -/
theorem unframeStep_errStep (s : State) : ErrStep .unframe s s.unframeStep := by
  rw [State.unframeStep]
  cases s.field with
  | idxCheck | tabLenCheck | payLenCheck => exact checkFour_errStep _ s
  | idx => exact .ite (.inl ⟨rfl, rfl⟩) (.inl (takeFieldByte_sameErr s))
  | tabLen => exact .ite (checkTabLen_errStep s) (.inl (takeFieldByte_sameErr s))
  | tab => exact .ite (.inl ⟨rfl, rfl⟩) (.inl (takeTabByte_sameErr s))
  | payLen => exact .ite (checkPayLen_errStep s) (.inl (takeFieldByte_sameErr s))
  | pay => exact .ite (.inl ⟨rfl, rfl⟩) (.inl (takePayByte_sameErr s))

/-! ### The kinds a transform raises -/

theorem mem_of_bwtFwdSentinel_error {B : List Byte} {k : ErrKind} (h : bwtFwdSentinel B = .error k) :
    k ∈ [ErrKind.sentinelCollision] := by
  rw [bwtFwdSentinel] at h
  split at h <;> cases h
  decide

theorem mem_of_bwtInvExplicit_error {L : List Byte} {p : Nat} {k : ErrKind} (h : bwtInvExplicit L p = .error k) :
    k ∈ [ErrKind.corruptBlock] := by
  rw [bwtInvExplicit] at h
  split_ifs at h <;> cases h <;> decide

theorem mem_of_bwtInvSentinel_error {L : List Byte} {k : ErrKind} (h : bwtInvSentinel L = .error k) :
    k ∈ [ErrKind.corruptBlock] := by
  simp only [bwtInvSentinel] at h
  split_ifs at h <;> cases h <;> decide

theorem mem_of_tabParse_error {t : List Byte} {k : ErrKind} (h : tabParse t = .error k) :
    k ∈ [ErrKind.malformedCodeTable] := by
  rw [tabParse] at h
  split_ifs at h
  · cases h; decide
  · cases h; decide
  · split at h
    · split_ifs at h; cases h; decide
    · cases h; decide

theorem mem_of_rleDecFrom_error {cap n : Nat} {R : List Byte} {k : ErrKind} (h : rleDecFrom cap n R = .error k) :
    k ∈ [ErrKind.truncatedInput, .corruptBlock] := by
  fun_induction rleDecFrom cap n R with
  | case1 | case2 => cases h; decide
  | case3 | case5 => cases h
  | case4 n c v rest _ _ k' hrest ih => cases h; exact ih hrest

theorem mem_of_rleDec_error {cap : Nat} {R : List Byte} {k : ErrKind} (h : rleDec cap R = .error k) :
    k ∈ [ErrKind.truncatedInput, .corruptBlock] := by
  rw [rleDec] at h
  split at h
  · cases h; decide
  · exact mem_of_rleDecFrom_error h

theorem mem_of_hufDecFrom_error {codes : Codes} {cap n : Nat} {acc bits : Bits} {k : ErrKind}
    (h : hufDecFrom codes cap acc n bits = .error k) : k ∈ [ErrKind.invalidCode, .corruptBlock] := by
  fun_induction hufDecFrom codes cap acc n bits with
  | case1 | case5 => cases h
  | case2 | case3 | case4 => cases h; decide
  | case6 _ _ _ _ _ _ _ _ _ _ hrest ih => cases h; exact ih hrest
  | case7 _ _ _ _ _ _ _ ih => exact ih h

theorem mem_of_hufDec_error {codes : Codes} {cap : Nat} {P : List Byte} {k : ErrKind}
    (h : hufDec codes cap P = .error k) : k ∈ [ErrKind.invalidCode, .corruptBlock] := by
  cases P with
  | nil => cases h; decide
  | cons pad packed =>
    simp only [hufDec] at h
    split at h
    · cases h; decide
    split at h
    · cases h; decide
    split at h
    case h_1 => split at h <;> cases h; decide
    case h_2 hdec => cases h; exact mem_of_hufDecFrom_error hdec

/-! ### The stage functions -/

theorem RaisesOnly.moveTo {ks : List ErrKind} {s : State} {r : Except ErrKind State} (h : RaisesOnly ks s r) (S : Stage) :
    RaisesOnly ks s (moveTo S r) :=
  match r, h with
  | .ok _, h => h
  | .error _, h => h

/-- A stage whose function raises kinds of the error table only ends in its result or in error entry (60_exceptions.md
R172). -/
theorem RaisesOnly.settle {ks : List ErrKind} {s : State} {r : Except ErrKind State} (h : RaisesOnly ks s r) {i : Instr}
    {S : Stage} (hrow : ∀ k ∈ ks, (i, k, S) ∈ raiseTable) : ∃ t, s.settle S r = .next t ∧ ErrStep i s t :=
  match r, h with
  | .ok t, h => ⟨t, rfl, .inl h⟩
  | .error k, h => ⟨s.raise k S, rfl, raise_errStep (hrow k h) s⟩

/-- A stage function that cannot fail: the error table has no row for it. -/
theorem RaisesOnly.settle_nil {s : State} {r : Except ErrKind State} (h : RaisesOnly [] s r) (i : Instr) (S : Stage) :
    ∃ t, s.settle S r = .next t ∧ ErrStep i s t :=
  h.settle nofun

theorem applyBwtFwdExplicit_raisesOnly (s : State) : RaisesOnly [] s s.applyBwtFwdExplicit := ⟨rfl, rfl⟩

theorem applyMtfEnc_raisesOnly (s : State) : RaisesOnly [] s s.applyMtfEnc := ⟨rfl, rfl⟩

theorem applyMtfDec_raisesOnly (s : State) : RaisesOnly [] s s.applyMtfDec := ⟨rfl, rfl⟩

theorem applyRleEnc_raisesOnly (s : State) : RaisesOnly [] s s.applyRleEnc := ⟨rfl, rfl⟩

theorem applyHufEnc_raisesOnly (s : State) : RaisesOnly [] s s.applyHufEnc := ⟨rfl, rfl⟩

theorem applyBwtFwdSentinel_raisesOnly (s : State) : RaisesOnly [.sentinelCollision] s s.applyBwtFwdSentinel := by
  cases h : bwtFwdSentinel s.blk with
  | ok L => rw [applyBwtFwdSentinel_of_ok h]; exact ⟨rfl, rfl⟩
  | error k => rw [applyBwtFwdSentinel_of_error h]; exact mem_of_bwtFwdSentinel_error h

theorem applyBwtInvExplicit_raisesOnly (s : State) : RaisesOnly [.corruptBlock] s s.applyBwtInvExplicit := by
  cases h : bwtInvExplicit s.colL s.pidx.toNat with
  | ok B => rw [applyBwtInvExplicit_of_ok h]; exact ⟨rfl, rfl⟩
  | error k => rw [applyBwtInvExplicit_of_error h]; exact mem_of_bwtInvExplicit_error h

theorem applyBwtInvSentinel_raisesOnly (s : State) : RaisesOnly [.corruptBlock] s s.applyBwtInvSentinel := by
  cases h : bwtInvSentinel s.colL with
  | ok B => rw [applyBwtInvSentinel_of_ok h]; exact ⟨rfl, rfl⟩
  | error k => rw [applyBwtInvSentinel_of_error h]; exact mem_of_bwtInvSentinel_error h

theorem applyRleDec_raisesOnly (s : State) : RaisesOnly [.truncatedInput, .corruptBlock] s s.applyRleDec := by
  cases h : rleDec (capL s.cfg s.mode) s.pairR with
  | ok M => rw [applyRleDec_of_ok h]; exact ⟨rfl, rfl⟩
  | error k => rw [applyRleDec_of_error h]; exact mem_of_rleDec_error h

theorem applyTabParse_raisesOnly (s : State) : RaisesOnly [.malformedCodeTable] s s.applyTabParse := by
  cases h : tabParse s.tab with
  | ok c => rw [applyTabParse_of_ok h]; exact ⟨rfl, rfl⟩
  | error k => rw [applyTabParse_of_error h]; exact mem_of_tabParse_error h

theorem applyHufDec_raisesOnly (s : State) : RaisesOnly [.invalidCode, .corruptBlock] s s.applyHufDec := by
  cases h : hufDec s.codes (capR s.cfg s.mode) s.pay with
  | ok R => rw [applyHufDec_of_ok h]; exact ⟨rfl, rfl⟩
  | error k => rw [applyHufDec_of_error h]; exact mem_of_hufDec_error h

/-! ### The stages that apply them -/

theorem exec_bwt_errStep (s : State) : ∃ t, exec .bwt s = .next t ∧ ErrStep .bwt s t := by
  cases hmode : s.mode with
  | explicitIndex =>
    rw [exec_bwt_explicitIndex hmode]
    exact ((applyBwtFwdExplicit_raisesOnly s).moveTo .mtf).settle_nil _ .bwt
  | sentinel =>
    rw [exec_bwt_sentinel hmode]
    exact ((applyBwtFwdSentinel_raisesOnly s).moveTo .mtf).settle (by decide)

/-- ENTROPY_INV keeps the parsed code map when HUF_DEC fails; ERR and the block count are those of `s` still. -/
theorem exec_entropyInv_errStep (s : State) : ∃ t, exec .entropyInv s = .next t ∧ ErrStep .entropyInv s t := by
  cases htab : tabParse s.tab with
  | ok c =>
    rw [exec_entropyInv_of_table htab]
    exact ((applyHufDec_raisesOnly { s with codes := c }).moveTo .rleInv).settle (by decide)
  | error k =>
    have hrow : ∀ k ∈ [ErrKind.malformedCodeTable], (Instr.entropyInv, k, Stage.entropyInv) ∈ raiseTable := by decide
    exact ⟨_, exec_entropyInv_of_no_table htab, raise_errStep (hrow k (mem_of_tabParse_error htab)) s⟩

/-- Queueing the block for JOIN raises nothing of its own (44_pipeline.md R144). -/
theorem exec_bwtInv_errStep (s : State) : ∃ t, exec .bwtInv s = .next t ∧ ErrStep .bwtInv s t := by
  rw [exec, execBwtInv]
  refine RaisesOnly.settle (ks := [.corruptBlock]) (RaisesOnly.moveTo ?_ _) (by decide)
  cases s.mode with
  | explicitIndex =>
    have h := applyBwtInvExplicit_raisesOnly s
    revert h
    cases s.applyBwtInvExplicit <;> exact id
  | sentinel =>
    have h := applyBwtInvSentinel_raisesOnly s
    revert h
    cases s.applyBwtInvSentinel <;> exact id

/-! ### Every instruction -/

/-- Every instruction keeps ERR and the errored latch, is error entry, or clears ERR as 60_exceptions.md R174 lets it. -/
theorem exec_errStep (i : Instr) (s : State) : ∃ t, exec i s = .next t ∧ ErrStep i s t := by
  cases i with
  | nop | idle => exact ⟨s, rfl, .inl (SameErr.refl s)⟩
  | compress => exact ⟨_, rfl, startOrRefuse_errStep _ s fun hbusy => .inr (.inr ⟨hbusy, .inl rfl⟩)⟩
  | decompress => exact ⟨_, rfl, startOrRefuse_errStep _ s fun hbusy => .inr (.inr ⟨hbusy, .inr (.inl rfl)⟩)⟩
  | abort => exact ⟨_, rfl, .inl (abort_sameErr s)⟩
  | reservedCmd v => exact ⟨_, rfl, .inl ⟨rfl, rfl⟩⟩
  | split => exact (execSplit_sameErr s).imp fun _ => And.imp_right .inl
  | bwt => exact exec_bwt_errStep s
  | mtf => exact ((applyMtfEnc_raisesOnly s).moveTo .rle).settle_nil _ .mtf
  | rle => exact ((applyRleEnc_raisesOnly s).moveTo .entropy).settle_nil _ .rle
  | entropy => exact ⟨_, exec_entropy s, .inl ⟨rfl, rfl⟩⟩
  | framed | join => exact ⟨_, rfl, .inl (pushPending_sameErr s)⟩
  | unframe => exact ⟨_, rfl, unframeStep_errStep s⟩
  | entropyInv => exact exec_entropyInv_errStep s
  | rleInv => exact ((applyRleDec_raisesOnly s).moveTo .mtfInv).settle (by decide)
  | mtfInv => exact ((applyMtfDec_raisesOnly s).moveTo .bwtInv).settle_nil _ .mtfInv
  | bwtInv => exact exec_bwtInv_errStep s
  | drain => exact ⟨_, rfl, .inl (drainStep_sameErr s)⟩
  | bwtFwdExplicit => exact (applyBwtFwdExplicit_raisesOnly s).settle_nil _ .bwt
  | bwtFwdSentinel => exact (applyBwtFwdSentinel_raisesOnly s).settle (by decide)
  | bwtInvExplicit => exact (applyBwtInvExplicit_raisesOnly s).settle (by decide)
  | bwtInvSentinel => exact (applyBwtInvSentinel_raisesOnly s).settle (by decide)
  | mtfEnc => exact (applyMtfEnc_raisesOnly s).settle_nil _ .mtf
  | mtfDec => exact (applyMtfDec_raisesOnly s).settle_nil _ .mtfInv
  | rleEnc => exact (applyRleEnc_raisesOnly s).settle_nil _ .rle
  | rleDec => exact (applyRleDec_raisesOnly s).settle (by decide)
  | hufEnc => exact (applyHufEnc_raisesOnly s).settle_nil _ .entropy
  | hufDec => exact (applyHufDec_raisesOnly s).settle (by decide)
  | tabParse => exact (applyTabParse_raisesOnly s).settle (by decide)
  | regRead off => exact ⟨_, rfl, .inl (busRead_sameErr off s)⟩
  | regWrite off v => exact ⟨_, rfl, busWrite_errStep off v s⟩
  | inPush b => exact ⟨_, rfl, .inl (hostPush_sameErr b s)⟩
  | outPop => exact ⟨_, rfl, .inl (hostPop_sameErr s)⟩
  | reset => exact ⟨_, rfl, .inr (.inr ⟨.inl rfl, rfl, nofun⟩)⟩

/-- Settles O57: a step that keeps ERR and the latch meets none of the three hypotheses; error entry meets the last two
and is a row of the table; a step that clears ERR meets the first and is one that may. -/
theorem errIsNeverSilentlyCleared : Obligations.ErrIsNeverSilentlyCleared := by
  intro i s t h
  obtain ⟨t', ht', hstep⟩ := exec_errStep i s
  obtain rfl : t' = t := Host.Outcome.next.inj (ht'.symm.trans h)
  obtain ⟨herr, herrored⟩ | ⟨u, k, S, hrow, -, rfl⟩ | ⟨hmay, hzero, hlatch⟩ := hstep
  · rw [herr, herrored]
    exact ⟨fun h1 h0 => absurd h1 (ne_true_of_eq_false h0), fun h0 h1 => absurd h1 (ne_true_of_eq_false h0),
      fun h0 h1 => absurd h1 (ne_true_of_eq_false h0)⟩
  · exact ⟨nofun, fun _ _ => ⟨rfl, rfl, k, S, hrow⟩, fun _ _ => rfl⟩
  · exact ⟨fun _ _ => hmay, fun _ h1 => absurd h1 (ne_true_of_eq_false hzero),
      fun h0 h1 => absurd (hlatch h1) (ne_true_of_eq_false h0)⟩

end Sys2Proof.Machine
end

section
/-! PROOF. The reset values (70_reset_and_hazards.md R188). The table says nothing of the coming turns, which the reset input
leaves to the host (45_commands.md R167), so the reset state of the configuration decides both halves. -/

namespace Sys2Proof.Machine

/-- DONE and ERR are the only sources (60_exceptions.md R175). -/
theorem State.irq_eq_false {s : State} (hdone : s.done = false) (herr : s.err = false) : s.irq = false := by
  simp only [State.irq, hdone, herr, Bool.and_false, Bool.or_false]

theorem State.resetOf_irq (c : Config) : (State.resetOf c).irq = false := State.irq_eq_false rfl rfl

/-- Every field of STATUS is 0: the flags, STAGE by the code of IDLE, OP and MODE by their bits, and IRQ. -/
theorem State.resetOf_statusWord (c : Config) : (State.resetOf c).statusWord = 0 := by
  rw [State.statusWord_eq_ofNat, State.resetOf_irq]
  simp [State.resetOf, Stage.code, Op.bit, Mode.bit]

/-- Whatever turns are to come. -/
theorem State.HasResetValues.withSched {c : Config} {s : State} (h : State.HasResetValues c s) (turns : List Turn) :
    State.HasResetValues c { s with sched := turns } := h

theorem State.resetOf_hasResetValues (c : Config) : State.HasResetValues c (State.resetOf c) := by
  refine ⟨rfl, rfl, rfl, rfl, ?status, rfl, rfl, rfl, rfl, rfl, rfl, ?irq, ?stored⟩
  case status => exact State.resetOf_statusWord c
  case irq => exact State.resetOf_irq c
  case stored => exact ⟨rfl, rfl, rfl, rfl, rfl, rfl, rfl, rfl, rfl, rfl, rfl, rfl, rfl, rfl, rfl⟩

/-- RESET discards everything but the parameters and the coming turns (45_commands.md R167). -/
theorem exec_reset (s : State) : exec .reset s = .next { State.resetOf s.cfg with sched := s.sched } := rfl

/-- Settles O1: the state RESET answers depends on the state before only by its parameters and its coming turns. -/
theorem resetGivesTheTableValues : Obligations.ResetGivesTheTableValues :=
  ⟨State.resetOf_hasResetValues,
    fun s => ⟨_, exec_reset s, (State.resetOf_hasResetValues s.cfg).withSched s.sched⟩⟩

end Sys2Proof.Machine
end

section
/-! PROOF. The rows of the sorted rotations and the LF-mapping (40_bwt.md R96 to R101). A row turned back by one byte is a
row again, and LF gives its place: the rows turned back are sorted by last byte first and by their old order on a tie. No
step needs the rotations to be different, so periodic blocks are in it. -/

namespace Sys2Proof.Machine

/-! ### A place in a sorted list -/

/-- In a sorted list, x stands at every place that is past the smaller elements and within those not greater. -/
theorem getElem?_eq_of_countP {S : List (List Nat)} (hS : S.Pairwise (· ≤ ·)) {x : List Nat} {k : Nat}
    (hlt : S.countP (· < x) ≤ k) (hle : k < S.countP (· ≤ x)) : S[k]? = some x := by
  induction S generalizing k with
  | nil => simp at hle
  | cons a S ih =>
    obtain ⟨ha, hS⟩ := List.pairwise_cons.mp hS
    obtain hax | rfl | hxa := lt_trichotomy a x
    · rw [List.countP_cons_of_pos (by simpa using hax)] at hlt
      rw [List.countP_cons_of_pos (by simpa using hax.le)] at hle
      obtain ⟨k, rfl⟩ := Nat.exists_eq_add_of_le' (Nat.one_le_of_lt hlt)
      simpa using ih hS (by omega) (by omega)
    · cases k with
      | zero => rfl
      | succ k =>
        have hnone : S.countP (· < a) = 0 := List.countP_eq_zero.mpr fun b hb => by simpa using ha b hb
        rw [List.countP_cons_of_pos (by simp)] at hle
        simpa using ih hS (by omega) (by omega)
    · have hnone : (a :: S).countP (· ≤ x) = 0 :=
        List.countP_eq_zero.mpr fun b hb => by
          obtain rfl | hb := List.mem_cons.mp hb
          · simpa using hxa
          · simpa using hxa.trans_le (ha b hb)
      omega

/-! ### Rows -/

/-- The last byte of a row. -/
def lastByte (w : List Byte) : Byte := w.getLastD 0

/-- The row with its last byte put in front: the rotation by one byte less. -/
def turnBack (w : List Byte) : List Byte := lastByte w :: w.dropLast

theorem lastByte_concat (u : List Byte) (c : Byte) : lastByte (u ++ [c]) = c := by simp [lastByte]

theorem turnBack_concat (u : List Byte) (c : Byte) : turnBack (u ++ [c]) = c :: u := by
  simp [turnBack, lastByte_concat]

theorem length_turnBack {w : List Byte} (hw : w ≠ []) : (turnBack w).length = w.length := by
  have := List.length_pos_iff.mpr hw
  simp only [turnBack, List.length_cons, List.length_dropLast]
  omega

theorem turnBack_eq_rotate {w : List Byte} (hw : w ≠ []) : turnBack w = w.rotate (w.length - 1) := by
  obtain ⟨u, c, rfl⟩ := (List.eq_nil_or_concat' w).resolve_left hw
  simp [turnBack_concat, List.rotate_append_length_eq]

/-- The values of a row's bytes, in the library's lexicographic order. -/
abbrev rowKey (w : List Byte) : List Nat := w.map BitVec.toNat

theorem append_lt_append_of_lt {a b : List Nat} (h : a < b) (hlen : a.length = b.length) (x y : List Nat) :
    a ++ x < b ++ y := by
  induction a generalizing b with
  | nil =>
    obtain rfl := List.length_eq_zero_iff.mp hlen.symm
    simp at h
  | cons m a ih =>
    cases b with
    | nil => simp at hlen
    | cons n b =>
      rw [List.cons_append, List.cons_append, List.cons_lt_cons_iff]
      exact (List.cons_lt_cons_iff.mp h).imp_right (And.imp_right fun h => ih h (by simpa using hlen))

theorem turnBack_lt_of_lastByte_lt {m w : List Byte} (h : (lastByte m).toNat < (lastByte w).toNat) :
    rowKey (turnBack m) < rowKey (turnBack w) :=
  List.cons_lt_cons_iff.mpr (.inl h)

/-- Rows with one last byte keep their order when they are turned back. -/
theorem turnBack_le_of_le {m w : List Byte} (hm : m ≠ []) (hw : w ≠ []) (hlen : m.length = w.length)
    (hlast : lastByte m = lastByte w) (hle : rowKey m ≤ rowKey w) : rowKey (turnBack m) ≤ rowKey (turnBack w) := by
  obtain ⟨u, c, rfl⟩ := (List.eq_nil_or_concat' m).resolve_left hm
  obtain ⟨v, d, rfl⟩ := (List.eq_nil_or_concat' w).resolve_left hw
  obtain rfl : c = d := by simpa [lastByte_concat] using hlast
  contrapose! hle
  rw [turnBack_concat, turnBack_concat, rowKey, rowKey, List.map_cons, List.map_cons, List.cons_lt_cons_iff] at hle
  obtain hle | ⟨-, hle⟩ := hle
  · exact absurd hle (lt_irrefl _)
  · simpa using append_lt_append_of_lt hle (by simpa using hlen.symm) _ _

/-! ### LF -/

/-- LF of a place counts the bytes not greater before it and the smaller ones after it (40_bwt.md R101). -/
theorem lf_append_cons (A D : List Byte) (c : Byte) :
    lf (A ++ c :: D) A.length =
      A.countP (fun y => y.toNat ≤ c.toNat) + D.countP (fun y => y.toNat < c.toNat) := by
  have hsplit : A.countP (fun y => y.toNat ≤ c.toNat) = A.countP (fun y => y.toNat < c.toNat) + A.count c := by
    induction A with
    | nil => rfl
    | cons a A ih =>
      simp only [List.countP_cons, List.count_cons, ih, beq_iff_eq, decide_eq_true_eq, ← BitVec.toNat_inj]
      split_ifs <;> omega
  simp only [lf, cumCount, occ, List.getD_append_right _ _ _ _ le_rfl, Nat.sub_self, List.getD_cons_zero,
    List.take_left, List.countP_append, List.countP_cons, hsplit]
  simp
  omega

/-- Sorted rows of one length that are the same rows when turned back. -/
structure SortedRows (M : List (List Byte)) : Prop where
  sorted : M.Pairwise fun a b => rowKey a ≤ rowKey b
  turned : (M.map turnBack).Perm M
  row_ne_nil : ∀ w ∈ M, w ≠ []
  length_eq : ∀ m ∈ M, ∀ w ∈ M, m.length = w.length

theorem lf_map_lastByte (A D : List (List Byte)) (w : List Byte) :
    lf ((A ++ w :: D).map lastByte) A.length =
      A.countP (fun m => (lastByte m).toNat ≤ (lastByte w).toNat) +
        D.countP (fun m => (lastByte m).toNat < (lastByte w).toNat) := by
  have h := lf_append_cons (A.map lastByte) (D.map lastByte) (lastByte w)
  rw [List.length_map, List.countP_map, List.countP_map] at h
  simpa [Function.comp_def] using h

/-- A count over the keys of the rows, taken over the rows turned back. -/
theorem SortedRows.countP_rowKey {A D : List (List Byte)} {w : List Byte} (hM : SortedRows (A ++ w :: D))
    (p : List Nat → Bool) : ((A ++ w :: D).map rowKey).countP p =
      A.countP (fun m => p (rowKey (turnBack m))) +
        (D.countP (fun m => p (rowKey (turnBack m))) + if p (rowKey (turnBack w)) then 1 else 0) := by
  rw [← (hM.turned.map rowKey).countP_eq p, List.map_map, List.countP_map, List.countP_append, List.countP_cons]
  rfl

/-- LF of a row's place is the place of the row turned back (40_bwt.md R102). -/
theorem SortedRows.getElem?_lf {M : List (List Byte)} (hM : SortedRows M) {i : Nat} {w : List Byte}
    (hi : M[i]? = some w) : M[lf (M.map lastByte) i]? = some (turnBack w) := by
  obtain ⟨A, D, rfl, rfl⟩ : ∃ A D, M = A ++ w :: D ∧ A.length = i := by
    obtain ⟨hlt, rfl⟩ := List.getElem?_eq_some_iff.mp hi
    exact ⟨M.take i, M.drop (i + 1), by simp, by simp; omega⟩
  obtain ⟨-, hw, hAD⟩ := List.pairwise_append.mp hM.sorted
  obtain ⟨hwD, -⟩ := List.pairwise_cons.mp hw
  have hwmem : w ∈ A ++ w :: D := by simp
  have turn_le {a b : List Byte} (ha : a ∈ A ++ w :: D) (hb : b ∈ A ++ w :: D) :=
    turnBack_le_of_le (hM.row_ne_nil a ha) (hM.row_ne_nil b hb) (hM.length_eq a ha b hb)
  have before {m : List Byte} (hm : m ∈ A) :
      (lastByte m).toNat ≤ (lastByte w).toNat ↔ rowKey (turnBack m) ≤ rowKey (turnBack w) := by
    refine ⟨fun h => ?_, fun h => not_lt.mp fun hlt => (turnBack_lt_of_lastByte_lt hlt).not_ge h⟩
    obtain h | h := h.lt_or_eq
    · exact (turnBack_lt_of_lastByte_lt h).le
    · exact turn_le (by simp [hm]) hwmem (BitVec.eq_of_toNat_eq h) (hAD m hm w (by simp))
  have after {m : List Byte} (hm : m ∈ D) :
      (lastByte m).toNat < (lastByte w).toNat ↔ rowKey (turnBack m) < rowKey (turnBack w) := by
    refine ⟨turnBack_lt_of_lastByte_lt, fun h => not_le.mp fun hle => ?_⟩
    obtain hlt | heq := hle.lt_or_eq
    · exact (turnBack_lt_of_lastByte_lt hlt).not_gt h
    · exact (turn_le hwmem (by simp [hm]) (BitVec.eq_of_toNat_eq heq) (hwD m hm)).not_gt h
  have hbefore : A.countP (fun m => (lastByte m).toNat ≤ (lastByte w).toNat) =
      A.countP fun m => rowKey (turnBack m) ≤ rowKey (turnBack w) :=
    List.countP_congr fun m hm => by simpa using before hm
  have hafter : D.countP (fun m => (lastByte m).toNat < (lastByte w).toNat) =
      D.countP fun m => rowKey (turnBack m) < rowKey (turnBack w) :=
    List.countP_congr fun m hm => by simpa using after hm
  have lt_le (l : List (List Byte)) : l.countP (fun m => rowKey (turnBack m) < rowKey (turnBack w)) ≤
      l.countP fun m => rowKey (turnBack m) ≤ rowKey (turnBack w) :=
    List.countP_mono_left fun m _ h => by simpa using (of_decide_eq_true h).le
  have hplace : ((A ++ w :: D).map rowKey)[lf ((A ++ w :: D).map lastByte) A.length]? = some (rowKey (turnBack w)) := by
    rw [lf_map_lastByte, hbefore, hafter]
    refine getElem?_eq_of_countP (List.pairwise_map.mpr hM.sorted) ?_ ?_ <;> rw [hM.countP_rowKey]
    · simpa using lt_le A
    · simpa using Nat.lt_succ_of_le (lt_le D)
  rw [List.getElem?_map] at hplace
  obtain ⟨v, hv, hkey⟩ := Option.map_eq_some_iff.mp hplace
  rw [hv, map_toNat_injective hkey]

/-! ### The walk -/

/-- The walk from a row emits the row's bytes from the last one on (40_bwt.md R103). -/
theorem SortedRows.walkEmitMove_eq {M : List (List Byte)} (hM : SortedRows M) {n i : Nat} {w : List Byte}
    (hi : M[i]? = some w) (hn : n ≤ w.length) : walkEmitMove (M.map lastByte) n i = w.reverse.take n := by
  induction n generalizing i w with
  | zero => simp [walkEmitMove]
  | succ n ih =>
    have hw := hM.row_ne_nil w (List.mem_of_getElem? hi)
    have hlast : (M.map lastByte).getD i 0 = lastByte w := by simp [hi]
    have hturn := length_turnBack hw
    rw [walkEmitMove, hlast, ih (hM.getElem?_lf hi) (by omega)]
    obtain ⟨u, c, rfl⟩ := (List.eq_nil_or_concat' w).resolve_left hw
    have hu : n ≤ u.reverse.length := by simpa using hn
    simp [turnBack_concat, lastByte_concat, List.take_append_of_le_length hu]

/-- Moving first is starting one step further (40_bwt.md R104). -/
theorem walkMoveEmit_eq (L : List Byte) (n p : Nat) : walkMoveEmit L n p = walkEmitMove L n (lf L p) := by
  induction n generalizing p with
  | zero => rfl
  | succ n ih => rw [walkMoveEmit, walkEmitMove, ih]

/-! ### The rows of a block -/

/-- The sorted rotations of a block. -/
def rows (t : List Byte) : List (List Byte) := (rotationOrder t).map (rot t)

theorem rot_eq_rotate {t : List Byte} {s : Nat} (hs : s ≤ t.length) : rot t s = t.rotate s :=
  (List.rotate_eq_drop_append_take hs).symm

theorem lt_length_of_mem_rotationOrder {t : List Byte} {s : Nat} (hs : s ∈ rotationOrder t) : s < t.length :=
  List.mem_range.mp ((rotationOrder_perm t).mem_iff.mp hs)

theorem length_rotationOrder (t : List Byte) : (rotationOrder t).length = t.length := by
  simpa using (rotationOrder_perm t).length_eq

theorem rows_eq_map_rotate (t : List Byte) : rows t = (rotationOrder t).map t.rotate :=
  List.map_congr_left fun _ hs => rot_eq_rotate (lt_length_of_mem_rotationOrder hs).le

theorem rows_perm (t : List Byte) : (rows t).Perm ((List.range t.length).map t.rotate) := by
  rw [rows_eq_map_rotate]
  exact (rotationOrder_perm t).map _

theorem mem_rows {t w : List Byte} (hw : w ∈ rows t) : ∃ s < t.length, w = t.rotate s := by
  obtain ⟨s, hs, rfl⟩ := List.mem_map.mp ((rows_perm t).mem_iff.mp hw)
  exact ⟨s, List.mem_range.mp hs, rfl⟩

theorem length_of_mem_rows {t w : List Byte} (hw : w ∈ rows t) : w.length = t.length := by
  obtain ⟨s, -, rfl⟩ := mem_rows hw
  exact List.length_rotate t s

/-- Turned back, the rotation by s is the rotation by s − 1, and the block itself the rotation by N − 1. -/
theorem turnBack_rotate {t : List Byte} (ht : t ≠ []) (s : Nat) :
    turnBack (t.rotate s) = t.rotate (s + (t.length - 1)) := by
  rw [turnBack_eq_rotate (by simpa using ht), List.rotate_rotate, List.length_rotate]

theorem map_turnBack_rows_perm (t : List Byte) : ((rows t).map turnBack).Perm (rows t) := by
  refine ((rows_perm t).map turnBack).trans (.trans ?_ (rows_perm t).symm)
  rcases eq_or_ne t [] with rfl | ht
  · rfl
  obtain ⟨n, hn⟩ := Nat.exists_eq_add_of_le' (List.length_pos_iff.mpr ht)
  have hshift (s : Nat) : turnBack (t.rotate (s + 1)) = t.rotate s := by
    rw [turnBack_rotate ht, ← List.rotate_mod, show s + 1 + (t.length - 1) = s + t.length by omega,
      Nat.add_mod_right, List.rotate_mod]
  have hzero : turnBack (t.rotate 0) = t.rotate n := by
    rw [turnBack_rotate ht, hn]
    simp
  rw [hn, List.map_map]
  nth_rw 1 [List.range_succ_eq_map]
  rw [List.range_succ, List.map_cons, List.map_map, List.map_append]
  simp only [Function.comp_def, hshift, hzero]
  exact (List.perm_append_singleton _ _).symm

theorem sortedRows_rows {t : List Byte} : SortedRows (rows t) where
  sorted := by
    refine List.pairwise_map.mpr ((rotationOrder_pairwise_rotLe t).imp fun {a b} h => ?_)
    have hkey := (Prod.Lex.toLex_le_toLex).mp ((keyLe_iff_keyValue_le _ _).mp h)
    exact hkey.elim le_of_lt fun h => h.1.le
  turned := map_turnBack_rows_perm t
  row_ne_nil w hw := by
    obtain ⟨s, hs, rfl⟩ := mem_rows hw
    exact fun h => by simp_all
  length_eq m hm w hw := (length_of_mem_rows hm).trans (length_of_mem_rows hw).symm

/-- The column is the last bytes of the rows (40_bwt.md R98). -/
theorem lastColumn_eq_map_lastByte (t : List Byte) : lastColumn t = (rows t).map lastByte := by
  rw [rows_eq_map_rotate, List.map_map]
  refine List.map_congr_left fun s hs => ?_
  have hlt := lt_length_of_mem_rotationOrder hs
  have hlast : t.length - 1 < (t.rotate s).length := by rw [List.length_rotate]; omega
  rw [Function.comp_apply, lastByte, List.getLastD_eq_getLast?, List.getLast?_eq_getElem?, List.length_rotate,
    List.getElem?_rotate (by omega), List.getD_eq_getElem?_getD]
  congr 3
  omega

end Sys2Proof.Machine
end

section
/-! PROOF. The columns of the two modes and their inverses (40_bwt.md R98 to R106). The walk of the inverse starts at the row
of the unturned block, and so reads the block backwards. -/

namespace Sys2Proof.Machine

/-! ### The column -/

theorem length_lastColumn (t : List Byte) : (lastColumn t).length = t.length := by
  simp [lastColumn, length_rotationOrder]

/-- The column holds the bytes of the block. -/
theorem lastColumn_perm (t : List Byte) : (lastColumn t).Perm t := by
  rcases eq_or_ne t [] with rfl | ht
  · rfl
  refine ((rotationOrder_perm t).map _).trans (.trans (.of_eq ?_) (List.rotate_perm t (t.length - 1)))
  have hpos := List.length_pos_iff.mpr ht
  refine List.ext_getElem (by simp) fun i hi hi' => ?_
  have hlt : (i + t.length - 1) % t.length < t.length := Nat.mod_lt _ hpos
  simp only [List.getElem_map, List.getElem_range, List.getElem_rotate, ← Nat.add_sub_assoc hpos]
  exact List.getD_eq_getElem _ _ hlt

/-- Row i of the column is the byte before the start index (40_bwt.md R98). -/
theorem getElem?_lastColumn {t : List Byte} {i o : Nat} (h : (rotationOrder t)[i]? = some o) :
    (lastColumn t)[i]? = t[(o + t.length - 1) % t.length]? := by
  have hpos := lt_length_of_mem_rotationOrder (List.mem_of_getElem? h)
  have hlt : (o + t.length - 1) % t.length < t.length := Nat.mod_lt _ (by omega)
  simp [lastColumn, h, List.getElem?_eq_getElem hlt]

/-! ### The row of the unturned block -/

theorem zero_mem_rotationOrder {t : List Byte} (ht : t ≠ []) : 0 ∈ rotationOrder t :=
  (rotationOrder_perm t).mem_iff.mpr (List.mem_range.mpr (List.length_pos_iff.mpr ht))

theorem primaryIndex_lt {t : List Byte} (ht : t ≠ []) : primaryIndex t < t.length :=
  (List.idxOf_lt_length_of_mem (zero_mem_rotationOrder ht)).trans_eq (length_rotationOrder t)

theorem rotationOrder_primaryIndex {t : List Byte} (ht : t ≠ []) : (rotationOrder t)[primaryIndex t]? = some 0 :=
  List.getElem?_idxOf (zero_mem_rotationOrder ht)

theorem rows_primaryIndex {t : List Byte} (ht : t ≠ []) : (rows t)[primaryIndex t]? = some t := by
  simp [rows, rotationOrder_primaryIndex ht, rot]

theorem bwtFwdExplicit_index {B : List Byte} (hB : B ≠ []) (hlen : B.length < 2 ^ 32) :
    (bwtFwdExplicit B).2.toNat = primaryIndex B := by
  have hlt := primaryIndex_lt hB
  simp only [bwtFwdExplicit, if_neg hB, BitVec.toNat_ofNat]
  exact Nat.mod_eq_of_lt (by omega)

theorem bwtFwdSentinel_ok {B L : List Byte} (h : bwtFwdSentinel B = .ok L) : B.count 0 = 0 ∧ L = lastColumn (B ++ [0]) := by
  rw [bwtFwdSentinel] at h
  split at h
  · cases h
  · cases h
    exact ⟨by omega, rfl⟩

/-- Settles O31: every fact is one of the column's or of the primary index, whose row starts at 0. -/
theorem primaryIndexIsTheUnrotatedRow : Obligations.PrimaryIndexIsTheUnrotatedRow := by
  refine ⟨fun B hB => ⟨primaryIndex_lt hB, rotationOrder_primaryIndex hB, bwtFwdExplicit_index hB, length_lastColumn B,
    fun i o => getElem?_lastColumn⟩, fun B L h => ?sentinel⟩
  case sentinel =>
    obtain ⟨-, rfl⟩ := bwtFwdSentinel_ok h
    have hlen : (B ++ [0]).length = B.length + 1 := by simp
    exact ⟨(length_lastColumn _).trans hlen, fun i o ho => hlen ▸ getElem?_lastColumn ho⟩

/-- Settles O33: the walk starts at the row of the block, so it emits the block from its last byte on, whether or not
other rows are the same. -/
theorem explicitBwtRoundTrips : Obligations.ExplicitBwtRoundTrips := by
  intro B hB hlen
  have hlt := primaryIndex_lt hB
  have hpos := List.length_pos_iff.mpr hB
  have hwalk : walkEmitMove (lastColumn B) B.length (primaryIndex B) = B.reverse := by
    rw [lastColumn_eq_map_lastByte, sortedRows_rows.walkEmitMove_eq (rows_primaryIndex hB) le_rfl]
    simp
  have hcol : (bwtFwdExplicit B).1 = lastColumn B := rfl
  rw [bwtFwdExplicit_index hB (by omega), hcol, bwtInvExplicit, length_lastColumn, if_neg (by omega), if_neg (by omega),
    hwalk, List.reverse_reverse]

/-! ### SENTINEL mode -/

/-- A byte that a sequence holds once has one place. -/
theorem idxOf_eq_of_count_eq_one {L : List Byte} {x : Byte} {i : Nat} (hone : L.count x = 1) (hi : L[i]? = some x) :
    L.idxOf x = i := by
  induction L generalizing i with
  | nil => simp at hi
  | cons y L ih =>
    cases i with
    | zero =>
      obtain rfl : y = x := by simpa using hi
      exact List.idxOf_cons_self
    | succ i =>
      have hmem : x ∈ L := List.mem_of_getElem? hi
      have hne : y ≠ x := by
        rintro rfl
        have := List.count_pos_iff.mpr hmem
        rw [List.count_cons_self] at hone
        omega
      rw [List.count_cons_of_ne hne] at hone
      rw [List.idxOf_cons_ne _ hne, ih hone hi]

section Sentinel

variable {B : List Byte} (hB : B.count 0 = 0)

include hB

theorem count_zero_lastColumn : (lastColumn (B ++ [0])).count 0 = 1 := by
  rw [(lastColumn_perm _).count_eq, List.count_append, hB]
  rfl

/-- The sentinel stands in the row of the unturned block, and only there (40_bwt.md R104). -/
theorem idxOf_zero_lastColumn : (lastColumn (B ++ [0])).idxOf 0 = primaryIndex (B ++ [0]) := by
  refine idxOf_eq_of_count_eq_one (count_zero_lastColumn hB) ?_
  rw [lastColumn_eq_map_lastByte, List.getElem?_map, rows_primaryIndex (by simp)]
  exact congrArg some (lastByte_concat B 0)

/-- LF of the sentinel's place is the row that starts with the sentinel. -/
theorem rows_lf_idxOf_zero :
    (rows (B ++ [0]))[lf (lastColumn (B ++ [0])) ((lastColumn (B ++ [0])).idxOf 0)]? = some (0 :: B) := by
  rw [idxOf_zero_lastColumn hB, lastColumn_eq_map_lastByte,
    sortedRows_rows.getElem?_lf (rows_primaryIndex (by simp)), turnBack_concat]

/-- The walk of the inverse emits the block from its last byte on (40_bwt.md R104). -/
theorem walkMoveEmit_lastColumn :
    walkMoveEmit (lastColumn (B ++ [0])) B.length ((lastColumn (B ++ [0])).idxOf 0) = B.reverse := by
  have hrow := rows_lf_idxOf_zero hB
  rw [walkMoveEmit_eq]
  rw [lastColumn_eq_map_lastByte] at hrow ⊢
  rw [sortedRows_rows.walkEmitMove_eq hrow (by simp)]
  simp

theorem bwtInvSentinel_lastColumn : bwtInvSentinel (lastColumn (B ++ [0])) = .ok B := by
  have hlen : (lastColumn (B ++ [0])).length = B.length + 1 := by simp [length_lastColumn]
  simp only [bwtInvSentinel, hlen, Nat.add_sub_cancel, count_zero_lastColumn hB, walkMoveEmit_lastColumn hB,
    List.count_reverse, hB, List.reverse_reverse]
  rfl

/-- No row comes before the one that starts with the sentinel, so LF of the sentinel's place is 0. -/
theorem lf_idxOf_zero : lf (lastColumn (B ++ [0])) ((lastColumn (B ++ [0])).idxOf 0) = 0 := by
  have hmem : (0 : Byte) ∈ lastColumn (B ++ [0]) := List.count_pos_iff.mp (by rw [count_zero_lastColumn hB]; decide)
  have hget : (lastColumn (B ++ [0])).getD ((lastColumn (B ++ [0])).idxOf 0) 0 = 0 := by
    rw [List.getD_eq_getElem?_getD, List.getElem?_idxOf hmem, Option.getD_some]
  have hocc : ((lastColumn (B ++ [0])).take ((lastColumn (B ++ [0])).idxOf 0)).count 0 = 0 :=
    List.count_eq_zero.mpr fun h => ((List.mem_take_iff_idxOf_lt hmem).mp h).false
  rw [lf, hget, cumCount, occ, hocc, Nat.add_zero]
  exact List.countP_eq_zero.mpr fun y _ => by simp

/-- The column starts with the last byte of the block (40_bwt.md R100). -/
theorem head?_lastColumn (hne : B ≠ []) : (lastColumn (B ++ [0])).head? = B.getLast? := by
  have hrow := rows_lf_idxOf_zero hB
  rw [lf_idxOf_zero hB] at hrow
  obtain ⟨u, c, rfl⟩ := (List.eq_nil_or_concat' B).resolve_left hne
  rw [lastColumn_eq_map_lastByte, List.head?_eq_getElem?, List.getElem?_map, hrow, ← List.cons_append,
    Option.map_some, lastByte_concat, List.getLast?_concat]

end Sentinel

/-- Settles O32: the column holds the block's bytes and one sentinel, and its first row is the one that starts with it. -/
theorem sentinelColumnHasOneSentinel : Obligations.SentinelColumnHasOneSentinel := by
  intro B L h
  obtain ⟨hB, rfl⟩ := bwtFwdSentinel_ok h
  exact ⟨by simp [length_lastColumn], count_zero_lastColumn hB, head?_lastColumn hB⟩

/-- Settles O34: the sentinel stands in the row of the block, and the walk from there emits the block backwards, without
meeting the sentinel again. -/
theorem sentinelBwtRoundTrips : Obligations.SentinelBwtRoundTrips :=
  fun _ hB => ⟨_, bwtFwdSentinel_of_no_zero hB, bwtInvSentinel_lastColumn hB⟩

end Sys2Proof.Machine
end

section
/-! PROOF. The decoder and the encoder (30_encoding.md R77, R79). Host words are taken apart by hand, operand by operand;
the stage codes and the stage-function codes are few, and all of them are looked at. -/

namespace Sys2Proof.Machine

/-! ### The command decoder -/

theorem decodeCommand_reserved {v : Word} (hv : 4 ≤ v.toNat) : decodeCommand v = .reservedCmd v := by
  unfold decodeCommand
  split
  case h_5 => rfl
  all_goals omega

/-- The value of a CMD write is one of the four commands or reserved (30_encoding.md R77). -/
theorem command_cases (v : Word) : v = 0 ∨ v = 1 ∨ v = 2 ∨ v = 3 ∨ 4 ≤ v.toNat := by
  by_cases h : 4 ≤ v.toNat
  · simp [h]
  · have hv : v.toNat = 0 ∨ v.toNat = 1 ∨ v.toNat = 2 ∨ v.toNat = 3 := by omega
    exact hv.imp BitVec.eq_of_toNat_eq (.imp BitVec.eq_of_toNat_eq
      (.imp BitVec.eq_of_toNat_eq fun h => .inl (BitVec.eq_of_toNat_eq h)))

/-! ### The register accesses -/

theorem legalAccess_iff (addr size : Nat) : legalAccess addr size = true ↔ size = 4 ∧ addr % 4 = 0 := by
  simp [legalAccess]

theorem alignedOffset_iff (off : BitVec 6) : alignedOffset off = true ↔ off.toNat % 4 = 0 := by
  simp [alignedOffset]

theorem toNat_offsetOf (addr : Nat) : (offsetOf addr).toNat = addr % 64 := rfl

theorem alignedOffset_offsetOf {addr : Nat} (h : addr % 4 = 0) : alignedOffset (offsetOf addr) = true := by
  rw [alignedOffset_iff, toNat_offsetOf]
  omega

/-- Four lanes are the lanes of the word they hold (20_memory.md R61). -/
theorem lanesOfWord_wordOfLanes {lanes : List Byte} (h : lanes.length = 4) : lanesOfWord (wordOfLanes lanes) = lanes := by
  obtain ⟨b0, b1, b2, b3, rfl⟩ := List.length_eq_four.mp h
  simp only [wordOfLanes, lanesOfWord, BitVec.extractLsb'_append_eq_ite]
  simp

/-- Settles O47: the reserved values are above the commands, an aligned offset is read as itself, a data word comes back
from its lanes; every other code word has no operand, or one that it holds as it is. -/
theorem decodeInvertsEncode : Obligations.DecodeInvertsEncode := by
  intro i hi
  cases i with
  | reservedCmd v => exact congrArg Except.ok (decodeCommand_reserved (of_decide_eq_true hi))
  | regRead off => exact decode_read_offset off ((alignedOffset_iff off).mp hi)
  | regWrite off data => exact decode_write_offset off data ((alignedOffset_iff off).mp hi)
  | _ => rfl

/-! ### Accepted words -/

/-- The word is rejected, or its instruction is well-formed and encodes as the word in canonical form. -/
def isWordOfInstr (c : Code) : Bool :=
  match decode c with
  | .ok i => wellFormed i && encode i == c.canonical
  | .error _ => true

theorem isWordOfInstr_stage : ∀ c : BitVec 4, isWordOfInstr (.stage c) = true := by decide

theorem isWordOfInstr_stageOp : ∀ (c : BitVec 5) (second : Bool), isWordOfInstr (.stageOp c second) = true := by
  decide

theorem isWordOfInstr_command (v : Word) : isWordOfInstr (.host (.command v)) = true := by
  obtain rfl | rfl | rfl | rfl | hv := command_cases v
  iterate 4 rfl
  have hdec : decode (.host (.command v)) = .ok (.reservedCmd v) := congrArg Except.ok (decodeCommand_reserved hv)
  simp [isWordOfInstr, hdec, wellFormed, reservedValue, hv, encode, Code.canonical]

theorem isWordOfInstr_read (addr size : Nat) : isWordOfInstr (.host (.read addr size)) = true := by
  by_cases h : legalAccess addr size = true
  · obtain ⟨rfl, hmod⟩ := (legalAccess_iff addr size).mp h
    simp [isWordOfInstr, decode, decodeHost, h, wellFormed, alignedOffset_offsetOf hmod, encode, Code.canonical]
  · simp [isWordOfInstr, decode, decodeHost, h]

theorem isWordOfInstr_write (addr : Nat) (lanes : List Byte) : isWordOfInstr (.host (.write addr lanes)) = true := by
  by_cases h : legalAccess addr lanes.length = true
  · obtain ⟨hlen, hmod⟩ := (legalAccess_iff addr _).mp h
    simp [isWordOfInstr, decode, decodeHost, h, wellFormed, alignedOffset_offsetOf hmod, encode, Code.canonical,
      lanesOfWord_wordOfLanes hlen]
  · simp [isWordOfInstr, decode, decodeHost, h]

theorem isWordOfInstr_eq_true (c : Code) : isWordOfInstr c = true := by
  cases c with
  | stage c => exact isWordOfInstr_stage c
  | stageOp c second => exact isWordOfInstr_stageOp c second
  | host h =>
    cases h with
    | command v => exact isWordOfInstr_command v
    | read addr size => exact isWordOfInstr_read addr size
    | write addr lanes => exact isWordOfInstr_write addr lanes
    | push b => simp [isWordOfInstr, decode, decodeHost, wellFormed, encode, Code.canonical]
    | pop | reset => rfl

/-- Settles O48: of every code word, that it is rejected or is the word of the instruction it decodes to. -/
theorem acceptedWordsHaveOneInstruction : Obligations.AcceptedWordsHaveOneInstruction := by
  intro c i h
  have hword := isWordOfInstr_eq_true c
  simpa [isWordOfInstr, h] using hword

/-- Settles O46: each word is evaluated. -/
theorem writtenWordsDecode : Obligations.WrittenWordsDecode := by
  refine ⟨rfl, rfl, rfl, ?stages, ?stageOps, rfl, rfl, rfl⟩
  case stages => decide
  case stageOps => decide

end Sys2Proof.Machine
end

section
/-! PROOF. What TAB_PARSE accepts (43_huffman.md R125): exactly the tables of the legal code maps, each read as its map. -/

namespace Sys2Proof.Machine

/-! ### Packing unpacked bits -/

/-- Packing the bits of a byte sequence gives it back. -/
theorem packBits_unpackBits (s : List Byte) : packBits (unpackBits s) = s := by
  have hlen : (packBits (unpackBits s)).length = s.length := by rw [length_packBits, length_unpackBits]; omega
  refine List.ext_getElem hlen fun i hi hi' => BitVec.eq_of_getLsbD_eq fun j hj => ?_
  have hk : 8 * i + (7 - j) < 8 * (packBits (unpackBits s)).length := by omega
  have hplace : (8 * i + (7 - j)) / 8 = i := by omega
  have hbit : 7 - (8 * i + (7 - j)) % 8 = j := by omega
  obtain ⟨b, hb, hval⟩ := getElem?_packBits (unpackBits s) hk
  have hun := getElem?_unpackBits s (8 * i + (7 - j)) s[i] (by rw [hplace, List.getElem?_eq_getElem hi'])
  rw [hplace, List.getElem?_eq_getElem hi] at hb
  rw [List.getD_eq_getElem?_getD, hun, hbit, Option.getD_some] at hval
  rw [Option.some.inj hb, hval]

/-- A byte sequence that a table entry may hold for a code: as many bytes as the code needs, and zero fill (43_huffman.md
R125). -/
theorem packBits_take_unpackBits {s : List Byte} {n : Nat} (hs : s.length = (n + 7) / 8)
    (hfill : ∀ b ∈ (unpackBits s).drop n, b = false) : packBits ((unpackBits s).take n) = s := by
  have hlen : (unpackBits s).length = 8 * ((n + 7) / 8) := by rw [length_unpackBits, hs]
  have htake : ((unpackBits s).take n).length = n := by rw [List.length_take]; omega
  have hpad : (unpackBits s).drop n = List.replicate (padLength ((unpackBits s).take n)) false := by
    refine List.eq_replicate_iff.mpr ⟨?_, hfill⟩
    rw [List.length_drop, padLength, htake]
    omega
  rw [← packBits_append_replicate_padLength, ← hpad, List.take_append_drop, packBits_unpackBits]

/-! ### The entries -/

/-- What an entry loop that passes has read (43_huffman.md R125). -/
structure ParsedEntries (n : Nat) (last : Option Byte) (t : List Byte) (c : Codes) (rest : List Byte) : Prop where
  bytes : t = c.flatMap serEntry ++ rest
  count : c.length = n
  above : ∀ e ∈ c, ascends last e.1 = true
  ascending : c.Pairwise fun a b => a.1.toNat < b.1.toNat
  lengths : ∀ e ∈ c, 1 ≤ e.2.length ∧ e.2.length ≤ 255

theorem ascends_of_lt {last : Option Byte} {s x : Byte} (hs : ascends last s = true) (hx : s.toNat < x.toNat) :
    ascends last x = true := by
  cases last with
  | none => rfl
  | some l => simp only [ascends, decide_eq_true_eq] at hs ⊢; omega

theorem parsedEntries_of_parseEntries {n : Nat} {last : Option Byte} {t : List Byte} {c : Codes} {rest : List Byte}
    (h : parseEntries n last t = some (c, rest)) : ParsedEntries n last t c rest := by
  fun_induction parseEntries n last t generalizing c rest with
  | case1 last t =>
    cases h
    exact ⟨rfl, rfl, nofun, .nil, nofun⟩
  | case2 | case3 | case4 | case5 | case7 | case8 => cases h
  | case6 n last s len t nb bits hasc hlen hfit hfill codes rest' =>
    rename_i hrest ih
    cases h
    obtain ⟨hbytes, hcount, habove, hascending, hlengths⟩ := ih hrest
    have hasc : ascends last s = true := by simpa using hasc
    have hpos : len.toNat ≠ 0 := fun h0 => hlen (BitVec.eq_of_toNat_eq h0)
    have hnb : (t.take nb).length = (len.toNat + 7) / 8 := by simp only [List.length_take]; omega
    have hcode : (bits.take len.toNat).length = len.toNat := by
      rw [List.length_take, length_unpackBits, hnb]; omega
    have hpack : packBits (bits.take len.toNat) = t.take nb := packBits_take_unpackBits hnb (by simpa using hfill)
    have hcodeLen : 1 ≤ (bits.take len.toNat).length ∧ (bits.take len.toNat).length ≤ 255 := by rw [hcode]; omega
    refine ⟨?_, by simp [hcount], List.forall_mem_cons.mpr ⟨hasc, fun e he => ?_⟩,
      List.pairwise_cons.mpr ⟨fun e he => by simpa [ascends] using habove e he, hascending⟩,
      List.forall_mem_cons.mpr ⟨hcodeLen, hlengths⟩⟩
    · rw [List.flatMap_cons, serEntry, hcode, hpack, List.append_assoc, ← hbytes, BitVec.ofNat_toNat,
        BitVec.setWidth_eq, List.cons_append, List.cons_append, List.take_append_drop]
    · exact ascends_of_lt hasc (by simpa [ascends] using habove e he)

/-! ### The table -/

theorem be16_ofBE (a b : Byte) : be16 (ofBE [a, b]) = [a, b] := by
  have ha := a.isLt
  have hb := b.isLt
  have hhigh : BitVec.ofNat 8 (ofBE [a, b] / 2 ^ 8) = a := BitVec.eq_of_toNat_eq (by simp [ofBE]; omega)
  have hlow : BitVec.ofNat 8 (ofBE [a, b]) = b := BitVec.eq_of_toNat_eq (by simp [ofBE]; omega)
  rw [be16, hhigh, hlow]

/-- Ascending codes that pass the check of the codes are free of one another (43_huffman.md R121). -/
theorem pairwise_not_isPrefix {c : Codes} (hasc : c.Pairwise fun a b => a.1.toNat < b.1.toNat)
    (hfree : prefixFree c = true) : c.Pairwise fun a b => ¬a.2 <+: b.2 ∧ ¬b.2 <+: a.2 := by
  have hall : ∀ a ∈ c, ∀ b ∈ c, a.1 ≠ b.1 → ¬a.2 <+: b.2 := fun a ha b hb hne hab => by
    have h := List.all_eq_true.mp (List.all_eq_true.mp hfree a ha) b hb
    simp [hne, List.isPrefixOf_iff_prefix.mpr hab] at h
  refine hasc.imp_of_mem fun {a b} ha hb hab => ?_
  have hne : a.1 ≠ b.1 := fun h => by simp [h] at hab
  exact ⟨hall a ha b hb hne, hall b hb a ha hne.symm⟩

/-- TAB_PARSE gives a map only on the table that is the map's, and the map is legal (43_huffman.md R125). -/
theorem legalCodes_of_tabParse {t : List Byte} {c : Codes} (h : tabParse t = .ok c) : LegalCodes c ∧ t = tabSer c := by
  rw [tabParse] at h
  split_ifs at h with htwo hcount
  split at h
  case h_2 => cases h
  case h_1 codes hparse =>
    split_ifs at h with hfree
    cases h
    obtain ⟨hbytes, hlen, -, hasc, hlengths⟩ := parsedEntries_of_parseEntries hparse
    obtain ⟨a, b, t, rfl⟩ : ∃ a b t', t = a :: b :: t' := by
      match t, htwo with
      | [], h => simp at h
      | [_], h => simp at h
      | a :: b :: t, _ => exact ⟨a, b, t, rfl⟩
    have hnum : c.length = ofBE [a, b] := hlen
    refine ⟨⟨hnum ▸ not_lt.mp hcount, hasc, hlengths, pairwise_not_isPrefix hasc hfree⟩, ?_⟩
    rw [tabSer, hnum, be16_ofBE]
    simpa using hbytes

theorem tabParse_of_not_table {t : List Byte} (h : ¬∃ c, LegalCodes c ∧ t = tabSer c) :
    tabParse t = .error .malformedCodeTable := by
  cases hparse : tabParse t with
  | ok c => exact absurd ⟨c, legalCodes_of_tabParse hparse⟩ h
  | error k =>
    obtain rfl : k = .malformedCodeTable := by simpa using mem_of_tabParse_error hparse
    rfl

end Sys2Proof.Machine
end

section
/-! PROOF. HUF_DEC on any payload (43_huffman.md R126). The bit loop goes through the codes: inside a code it goes on, at the
end of one a symbol comes out, and where no code goes on it fails. Every payload is split into the symbols its bits spell
and what is left. -/

namespace Sys2Proof.Machine

/-! ### The bit loop -/

section Loop

variable {c : Codes} {cap n : Nat} {acc bs u v : Bits} {b : Bool}

theorem hufDecFrom_leaves_bit (h : ∀ e ∈ c, ¬acc ++ [b] <+: e.2) :
    hufDecFrom c cap acc n (b :: bs) = .error .invalidCode := by
  have hany : c.any (fun e => (acc ++ [b]).isPrefixOf e.2) = false := by simpa using h
  rw [hufDecFrom]
  simp only [hany]
  rfl

theorem hufDecFrom_inside_bit (hin : ∃ e ∈ c, acc ++ [b] <+: e.2) (hne : ∀ e ∈ c, e.2 ≠ acc ++ [b]) :
    hufDecFrom c cap acc n (b :: bs) = hufDecFrom c cap (acc ++ [b]) n bs := by
  have hany : c.any (fun e => (acc ++ [b]).isPrefixOf e.2) = true := by simpa using hin
  have hfind : c.find? (fun e => e.2 == acc ++ [b]) = none := List.find?_eq_none.mpr (by simpa using hne)
  rw [hufDecFrom]
  simp only [hany, hfind]
  rfl

/-- Bits that leave the trie, read from inside it (43_huffman.md R126). -/
theorem hufDecFrom_leaves (hout : ∀ e ∈ c, ¬acc ++ u <+: e.2 ∧ ¬e.2 <+: acc ++ u) (hu : u ≠ []) :
    hufDecFrom c cap acc n (u ++ bs) = .error .invalidCode := by
  induction u generalizing acc with
  | nil => exact absurd rfl hu
  | cons b u ih =>
    have happ : acc ++ b :: u = acc ++ [b] ++ u := by simp
    rw [happ] at hout
    by_cases hin : ∃ e ∈ c, acc ++ [b] <+: e.2
    · obtain ⟨e, he, hpre⟩ := hin
      have hne : u ≠ [] := by
        rintro rfl
        exact (hout e he).1 (by simpa using hpre)
      have hcode : ∀ e ∈ c, e.2 ≠ acc ++ [b] := fun e he h => (hout e he).2 (h ▸ List.prefix_append _ _)
      rw [List.cons_append, hufDecFrom_inside_bit ⟨e, he, hpre⟩ hcode, ih hout hne]
    · exact hufDecFrom_leaves_bit (by simpa using hin)

/-- Bits inside a code are read on. -/
theorem hufDecFrom_inside (hc : LegalCodes c) {e : Byte × Bits} (he : e ∈ c) (hin : acc ++ u <+: e.2)
    (hne : acc ++ u ≠ e.2) : hufDecFrom c cap acc n (u ++ bs) = hufDecFrom c cap (acc ++ u) n bs := by
  induction u generalizing acc with
  | nil => simp
  | cons b u ih =>
    have happ : acc ++ b :: u = acc ++ [b] ++ u := by simp
    rw [happ] at hin hne ⊢
    have hfirst : acc ++ [b] <+: e.2 := (List.prefix_append _ _).trans hin
    have hcode : ∀ d ∈ c, d.2 ≠ acc ++ [b] := fun d hd h => by
      obtain rfl := hc.eq_of_prefix hd he (h ▸ hfirst)
      exact hne (hin.eq_of_length_le (h ▸ by simp))
    rw [List.cons_append, hufDecFrom_inside_bit ⟨e, he, hfirst⟩ hcode, ih hin hne]

/-- The bits end inside a code (43_huffman.md R126). -/
theorem hufDecFrom_ends (hc : LegalCodes c) {e : Byte × Bits} (he : e ∈ c) (hin : u <+: e.2) (hne : u ≠ e.2)
    (hu : u ≠ []) : hufDecFrom c cap [] n u = .error .invalidCode := by
  have h := hufDecFrom_inside (cap := cap) (n := n) (bs := []) hc he (acc := []) hin hne
  rw [List.append_nil, List.nil_append] at h
  rw [h, hufDecFrom, if_neg hu]

/-- A symbol beyond the capacity (43_huffman.md R126). -/
theorem hufDecFrom_full (hc : LegalCodes c) {s : Byte} (hmem : (s, u) ∈ c) (hn : cap < n + 1) :
    hufDecFrom c cap [] n (u ++ bs) = .error .corruptBlock := by
  obtain ⟨w, b, rfl⟩ := (List.eq_nil_or_concat' u).resolve_left (hc.code_ne_nil hmem)
  have hany : c.any (fun e => (w ++ [b]).isPrefixOf e.2) = true := List.any_eq_true.mpr ⟨_, hmem, by simp⟩
  have hfind : (c.find? fun e => e.2 == w ++ [b]).isSome = true :=
    List.find?_isSome.mpr ⟨_, hmem, by simp⟩
  obtain ⟨e, hfind⟩ := Option.isSome_iff_exists.mp hfind
  rw [List.append_assoc, hufDecFrom_inside hc hmem (by simp) (by simp), List.nil_append, List.singleton_append, hufDecFrom]
  simp [hany, hfind, hn]

/-- Spelt symbols within the capacity come out, and the loop goes on after them. -/
theorem hufDecFrom_spells_append (hc : LegalCodes c) {R : List Byte} (hspell : Spells c R v) (hcap : n + R.length ≤ cap) :
    hufDecFrom c cap [] n (v ++ bs) = (hufDecFrom c cap [] (n + R.length) bs).map (R ++ ·) := by
  induction R generalizing v n with
  | nil =>
    obtain rfl : v = [] := (spells_nil c v).mp hspell
    rw [List.nil_append, List.length_nil, Nat.add_zero]
    cases hufDecFrom c cap [] n bs <;> rfl
  | cons s R ih =>
    obtain ⟨x, y, hmem, hy, rfl⟩ := (spells_cons c s R v).mp hspell
    rw [List.length_cons] at hcap
    rw [List.append_assoc, hufDecFrom_code hc cap s [] x n _ hmem (hc.code_ne_nil hmem) (by omega), ih hy (by omega),
      List.length_cons, show n + 1 + R.length = n + (R.length + 1) by omega]
    cases hufDecFrom c cap [] (n + (R.length + 1)) bs <;> rfl

/-- What fails after spelt symbols fails with them. -/
theorem hufDecFrom_error_after (hc : LegalCodes c) {R : List Byte} {k : ErrKind} (hspell : Spells c R v)
    (hcap : R.length ≤ cap) (h : hufDecFrom c cap [] R.length bs = .error k) :
    hufDecFrom c cap [] 0 (v ++ bs) = .error k := by
  rw [hufDecFrom_spells_append hc hspell (by omega), Nat.zero_add, h]
  rfl

end Loop

/-! ### Spelt symbols -/

theorem spells_append {c : Codes} {R S : List Byte} {w : Bits} :
    Spells c (R ++ S) w ↔ ∃ u v, Spells c R u ∧ Spells c S v ∧ w = u ++ v := by
  induction R generalizing w with
  | nil => simp
  | cons s R ih =>
    simp only [List.cons_append, spells_cons, ih]
    constructor
    · rintro ⟨x, _, hx, ⟨u, v, hu, hv, rfl⟩, rfl⟩
      exact ⟨x ++ u, v, ⟨x, u, hx, hu, rfl⟩, hv, by simp⟩
    · rintro ⟨_, v, ⟨x, u, hx, hu, rfl⟩, hv, rfl⟩
      exact ⟨x, u ++ v, hx, ⟨u, v, hu, hv, rfl⟩, by simp⟩

/-- After the symbols a bit string spells, it ends, ends inside a code, or leaves the trie (43_huffman.md R126). -/
theorem exists_spells_append {c : Codes} (hc : LegalCodes c) (w : Bits) : ∃ R v u, w = v ++ u ∧ Spells c R v ∧
    (u = [] ∨ u ≠ [] ∧ ((∃ e ∈ c, u <+: e.2 ∧ u ≠ e.2) ∨ ∀ e ∈ c, ¬u <+: e.2 ∧ ¬e.2 <+: u)) := by
  induction hlen : w.length using Nat.strong_induction_on generalizing w with
  | _ n ih =>
    rcases eq_or_ne w [] with rfl | hw
    · exact ⟨[], [], [], rfl, by simp, .inl rfl⟩
    by_cases hcode : ∃ e ∈ c, e.2 <+: w
    · obtain ⟨⟨s, x⟩, he, y, rfl⟩ := hcode
      have hx := List.length_pos_iff.mpr (hc.code_ne_nil he)
      obtain ⟨R, v, u, rfl, hspell, hrest⟩ := ih y.length (by rw [← hlen, List.length_append]; omega) y rfl
      exact ⟨s :: R, x ++ v, u, by simp, (spells_cons c s R _).mpr ⟨x, v, he, hspell, rfl⟩, hrest⟩
    · have hcode : ∀ e ∈ c, ¬e.2 <+: w := by simpa using hcode
      refine ⟨[], [], w, rfl, by simp, .inr ⟨hw, ?_⟩⟩
      by_cases hin : ∃ e ∈ c, w <+: e.2
      · obtain ⟨e, he, hpre⟩ := hin
        exact .inl ⟨e, he, hpre, fun h => hcode e he (h ▸ List.prefix_rfl)⟩
      · exact .inr fun e he => ⟨fun h => hin ⟨e, he, h⟩, hcode e he⟩

/-! ### Payloads -/

/-- A payload is a pad length within bounds and the bytes after it. -/
theorem exists_payloadOf_iff (P : List Byte) :
    (∃ w fill, PayloadOf P w fill) ↔ ∃ pad packed, P = pad :: packed ∧ pad.toNat ≤ 7 ∧ pad.toNat ≤ 8 * packed.length := by
  constructor
  · rintro ⟨w, fill, hpad, packed, rfl, hbits⟩
    have hlen := congrArg List.length hbits
    rw [length_unpackBits, List.length_append] at hlen
    have hnum : (BitVec.ofNat 8 fill.length).toNat = fill.length := by simp; omega
    exact ⟨_, packed, rfl, by omega, by omega⟩
  · rintro ⟨pad, packed, rfl, hseven, hfit⟩
    have hlen : ((unpackBits packed).drop (8 * packed.length - pad.toNat)).length = pad.toNat := by
      rw [List.length_drop, length_unpackBits]; omega
    exact ⟨(unpackBits packed).take (8 * packed.length - pad.toNat), _, by omega, packed,
      by rw [hlen, BitVec.ofNat_toNat, BitVec.setWidth_eq], (List.take_append_drop _ _).symm⟩

theorem hufDec_of_not_payload {c : Codes} {cap : Nat} {P : List Byte} (h : ¬∃ w fill, PayloadOf P w fill) :
    hufDec c cap P = .error .invalidCode := by
  rw [exists_payloadOf_iff] at h
  cases P with
  | nil => rfl
  | cons pad packed =>
    rw [hufDec]
    by_cases hseven : pad.toNat > 7
    · rw [if_pos hseven]
    · rw [if_neg hseven, if_pos (not_le.mp fun hfit => h ⟨pad, packed, rfl, by omega, hfit⟩)]

/-- HUF_DEC of a payload is the bit loop over its meaningful bits, then the check of its fill bits. -/
theorem hufDec_of_payloadOf {c : Codes} {cap : Nat} {P : List Byte} {w fill : Bits} (h : PayloadOf P w fill) :
    hufDec c cap P =
      (hufDecFrom c cap [] 0 w).bind fun R => if fill.any id then .error .invalidCode else .ok R := by
  obtain ⟨hpad, packed, rfl, hbits⟩ := h
  have hlen : 8 * packed.length = w.length + fill.length := by rw [← length_unpackBits, hbits, List.length_append]
  have hnum : (BitVec.ofNat 8 fill.length).toNat = fill.length := by simp; omega
  simp only [hufDec, hnum, hlen, hbits, Nat.add_sub_cancel, List.take_left, List.drop_left]
  rw [if_neg (by omega), if_neg (by omega)]
  cases hufDecFrom c cap [] 0 w <;> rfl

theorem hufDec_error_of_loop {c : Codes} {cap : Nat} {P : List Byte} {w fill : Bits} {k : ErrKind}
    (h : PayloadOf P w fill) (hloop : hufDecFrom c cap [] 0 w = .error k) : hufDec c cap P = .error k := by
  rw [hufDec_of_payloadOf h, hloop]
  rfl

/-- HUF_DEC fails on the payloads of 60_exceptions.md R170, with the kind of their ERR_INFO. -/
theorem hufDec_of_hufFails {c : Codes} (hc : LegalCodes c) {cap : Nat} {P : List Byte} {i : Word}
    (h : HufFails c cap P i) : ∃ k, hufDec c cap P = .error k ∧ errWord k .entropyInv = i := by
  cases h with
  | pad h => exact ⟨_, hufDec_of_not_payload h, rfl⟩
  | capacity w fill v R h spelt front many =>
    obtain ⟨S, s, rfl⟩ := (List.eq_nil_or_concat' R).resolve_left (List.length_pos_iff.mp (by omega))
    obtain ⟨x, y, hx, hy, rfl⟩ := spells_append.mp spelt
    obtain ⟨u, t, hmem, ht, rfl⟩ := (spells_cons c s [] y).mp hy
    obtain rfl := (spells_nil c t).mp ht
    obtain ⟨z, rfl⟩ := front
    have hS : S.length = cap := by simpa using many
    refine ⟨.corruptBlock, hufDec_error_of_loop h ?_, rfl⟩
    rw [List.append_nil, List.append_assoc]
    exact hufDecFrom_error_after hc hx hS.le (hufDecFrom_full hc hmem (by omega))
  | leaves w fill v u R h spelt few front out some =>
    obtain ⟨z, rfl⟩ := front
    refine ⟨.invalidCode, hufDec_error_of_loop h ?_, rfl⟩
    rw [List.append_assoc]
    exact hufDecFrom_error_after hc spelt few (hufDecFrom_leaves (by simpa using out) some)
  | ends w fill v u R e h spelt few all mem inside proper some =>
    subst all
    exact ⟨_, hufDec_error_of_loop h (hufDecFrom_error_after hc spelt few (hufDecFrom_ends hc mem inside proper some)), rfl⟩
  | fill w fill R h spelt few one =>
    have hany : fill.any id = true := List.any_eq_true.mpr ⟨true, one, rfl⟩
    refine ⟨.invalidCode, ?_, rfl⟩
    rw [hufDec_of_payloadOf h, hufDecFrom_spells hc cap R w 0 spelt (by omega), hany]
    rfl

/-- Every payload decodes, or it fails as 60_exceptions.md R170 lists. -/
theorem hufDecodes_or_hufFails {c : Codes} (hc : LegalCodes c) (cap : Nat) (P : List Byte) :
    (∃ R, HufDecodes c cap P R) ∨ ∃ i, HufFails c cap P i := by
  by_cases hP : ∃ w fill, PayloadOf P w fill
  case neg => exact .inr ⟨_, .pad hP⟩
  obtain ⟨w, fill, hP⟩ := hP
  obtain ⟨R, v, u, rfl, hspell, hrest⟩ := exists_spells_append hc w
  by_cases hcap : cap < R.length
  · rw [← List.take_append_drop (cap + 1) R] at hspell
    obtain ⟨x, y, hx, -, rfl⟩ := spells_append.mp hspell
    exact .inr ⟨_, .capacity _ fill x _ hP hx (by simp) (by rw [List.length_take]; omega)⟩
  have hfew : R.length ≤ cap := not_lt.mp hcap
  obtain rfl | ⟨hu, ⟨e, he, hin, hne⟩ | hout⟩ := hrest
  · rw [List.append_nil] at hP
    by_cases hone : true ∈ fill
    · exact .inr ⟨_, .fill v fill R hP hspell hfew hone⟩
    · exact .inl ⟨R, v, fill, hP, hspell, hfew, fun b hb => by
        cases b with
        | false => rfl
        | true => exact absurd hb hone⟩
  · exact .inr ⟨_, .ends _ fill v u R e hP hspell hfew rfl he hin hne hu⟩
  · exact .inr ⟨_, .leaves _ fill v u R hP hspell hfew List.prefix_rfl hout hu⟩

end Sys2Proof.Machine
end

section
/-! PROOF. What a step can do, said once (44_pipeline.md R129; 45_commands.md R168). A stage or stage function writes buffers,
reads or pushes a byte, moves on, raises, or ends a block or a drain; a host action writes a register, starts, refuses or
aborts a command, moves a byte at a port, or resets. Every rule about all steps is read off these. -/

namespace Sys2Proof.Machine

/-! ### The buffers -/

/-- The state `s` with the working buffers, the alphabet and UNFRAME's marks of `b`: the fields that `State.forget` clears. -/
def State.withBuffers (s b : State) : State :=
  { s with
    blk := b.blk, colL := b.colL, pidx := b.pidx, rankM := b.rankM, pairR := b.pairR, codes := b.codes, tab := b.tab
    pay := b.pay, pend := b.pend, need := b.need, alpha := b.alpha, field := b.field, fbuf := b.fbuf }

theorem State.forget_withBuffers (s b : State) : (s.withBuffers b).forget = s.forget := rfl

/-- The alphabet and the code map of `b` are those of `s`, or new ones that are right. -/
structure BuffersFrom (s b : State) : Prop where
  alpha : b.alpha = s.alpha ∨ IsAlphabet b.alpha
  codes : b.codes = s.codes ∨ LegalCodes b.codes

theorem BuffersFrom.refl (s : State) : BuffersFrom s s := ⟨.inl rfl, .inl rfl⟩

/-! ### The stages -/

/-- The moves from one stage to the next (44_pipeline.md R133 to R144). -/
def moveTable : List (Stage × Stage) :=
  [(.split, .bwt), (.bwt, .mtf), (.mtf, .rle), (.rle, .entropy), (.entropy, .framed), (.unframe, .entropyInv),
    (.entropyInv, .rleInv), (.rleInv, .mtfInv), (.mtfInv, .bwtInv), (.bwtInv, .join)]

/-- The state after `InPop()` left the bytes `rest` (45_commands.md R165). -/
def State.popped (rest : List Byte) (s : State) : State := { s with inFifo := rest, inCount := s.inCount + 1 }

/-- What a STAGE or STAGE_OP row can do. -/
inductive StageStep (i : Instr) (s : State) : State → Prop
  /-- It writes buffers, or it holds. -/
  | keep (b : State) (hb : BuffersFrom s b) : StageStep i s (s.withBuffers b)
  /-- It takes the oldest input byte. -/
  | pop (x : Byte) (rest : List Byte) (b : State) (hb : BuffersFrom s b)
      (hi : i = .split ∨ i = .unframe ∨ i = .drain) (hin : s.inFifo = x :: rest) :
      StageStep i s ((s.popped rest).withBuffers b)
  /-- It moves to the next stage. -/
  | move (S S' : Stage) (b : State) (hb : BuffersFrom s b) (hi : i = S.instr) (hrow : (S, S') ∈ moveTable) :
      StageStep i s ((s.setStage S').withBuffers b)
  /-- It performs error entry (60_exceptions.md R170, R172). -/
  | raise (k : ErrKind) (S : Stage) (b : State) (hb : BuffersFrom s b) (hrow : (i, k, S) ∈ raiseTable) :
      StageStep i s ((s.raise k S).withBuffers b)
  /-- It pushes an output byte. -/
  | push (x : Byte) (b : State) (hb : BuffersFrom s b) (hi : i = .framed ∨ i = .join) (hroom : s.outRoom = true) :
      StageStep i s ((s.outPush x).withBuffers b)
  /-- It ends a block. -/
  | commit (hi : i = .framed ∨ i = .join) : StageStep i s s.commitBlock
  /-- It ends a drain. -/
  | endDrain (hi : i = .drain) (hrem : s.rem = 0) : StageStep i s s.endDrain

theorem StageStep.refl (i : Instr) (s : State) : StageStep i s s := .keep s (.refl s)

theorem StageStep.ite {i : Instr} {s t u : State} {p : Prop} [Decidable p] (ht : StageStep i s t)
    (hu : StageStep i s u) : StageStep i s (if p then t else u) := by
  split
  · exact ht
  · exact hu

/-- A stage function ends in a state with other buffers, or it fails with one of the kinds `ks`. -/
def WritesBuffers (ks : List ErrKind) (s : State) : Except ErrKind State → Prop
  | .ok t => t = s.withBuffers t ∧ BuffersFrom s t
  | .error k => k ∈ ks

/-- A stage function alone: its buffers, or error entry (60_exceptions.md R172). -/
theorem WritesBuffers.settle {ks : List ErrKind} {s : State} {r : Except ErrKind State} (h : WritesBuffers ks s r)
    {i : Instr} {S : Stage} (hrow : ∀ k ∈ ks, (i, k, S) ∈ raiseTable) :
    ∃ t, s.settle S r = .next t ∧ StageStep i s t :=
  match r, h with
  | .ok t, ⟨heq, hb⟩ => ⟨t, rfl, by rw [heq]; exact .keep t hb⟩
  | .error k, h => ⟨_, rfl, .raise k S s (.refl s) (hrow k h)⟩

/-- A stage function and the move after it (44_pipeline.md section 1). -/
theorem WritesBuffers.settle_moveTo {ks : List ErrKind} {s : State} {r : Except ErrKind State} (h : WritesBuffers ks s r)
    {S S' : Stage} (hmove : (S, S') ∈ moveTable) (hrow : ∀ k ∈ ks, (S.instr, k, S) ∈ raiseTable) :
    ∃ t, s.settle S (moveTo S' r) = .next t ∧ StageStep S.instr s t :=
  match r, h with
  | .ok t, ⟨heq, hb⟩ => ⟨_, rfl, by rw [heq]; exact .move S S' t hb rfl hmove⟩
  | .error k, h => ⟨_, rfl, .raise k S s (.refl s) (hrow k h)⟩

/-! ### The stage functions -/

theorem applyBwtFwdExplicit_writes (s : State) : WritesBuffers [] s s.applyBwtFwdExplicit := ⟨rfl, .inl rfl, .inl rfl⟩

theorem applyBwtFwdSentinel_writes (s : State) : WritesBuffers [.sentinelCollision] s s.applyBwtFwdSentinel := by
  cases h : bwtFwdSentinel s.blk with
  | ok L => rw [applyBwtFwdSentinel_of_ok h]; exact ⟨rfl, .inl rfl, .inl rfl⟩
  | error k => rw [applyBwtFwdSentinel_of_error h]; exact mem_of_bwtFwdSentinel_error h

theorem applyBwtInvExplicit_writes (s : State) : WritesBuffers [.corruptBlock] s s.applyBwtInvExplicit := by
  cases h : bwtInvExplicit s.colL s.pidx.toNat with
  | ok B => rw [applyBwtInvExplicit_of_ok h]; exact ⟨rfl, .inl rfl, .inl rfl⟩
  | error k => rw [applyBwtInvExplicit_of_error h]; exact mem_of_bwtInvExplicit_error h

theorem applyBwtInvSentinel_writes (s : State) : WritesBuffers [.corruptBlock] s s.applyBwtInvSentinel := by
  cases h : bwtInvSentinel s.colL with
  | ok B => rw [applyBwtInvSentinel_of_ok h]; exact ⟨rfl, .inl rfl, .inl rfl⟩
  | error k => rw [applyBwtInvSentinel_of_error h]; exact mem_of_bwtInvSentinel_error h

theorem applyMtfEnc_writes (s : State) : WritesBuffers [] s s.applyMtfEnc :=
  ⟨rfl, .inr (isAlphabet_mtfEnc s.colL), .inl rfl⟩

theorem applyMtfDec_writes (s : State) : WritesBuffers [] s s.applyMtfDec :=
  ⟨rfl, .inr (isAlphabet_mtfDec s.rankM), .inl rfl⟩

theorem applyRleEnc_writes (s : State) : WritesBuffers [] s s.applyRleEnc := ⟨rfl, .inl rfl, .inl rfl⟩

theorem applyRleDec_writes (s : State) : WritesBuffers [.truncatedInput, .corruptBlock] s s.applyRleDec := by
  cases h : rleDec (capL s.cfg s.mode) s.pairR with
  | ok M => rw [applyRleDec_of_ok h]; exact ⟨rfl, .inl rfl, .inl rfl⟩
  | error k => rw [applyRleDec_of_error h]; exact mem_of_rleDec_error h

theorem applyHufEnc_writes (s : State) : WritesBuffers [] s s.applyHufEnc :=
  ⟨rfl, .inl rfl, .inr (buildCodes_legal s.pairR)⟩

theorem applyTabParse_writes (s : State) : WritesBuffers [.malformedCodeTable] s s.applyTabParse := by
  cases h : tabParse s.tab with
  | ok c => rw [applyTabParse_of_ok h]; exact ⟨rfl, .inl rfl, .inr (legalCodes_of_tabParse h).1⟩
  | error k => rw [applyTabParse_of_error h]; exact mem_of_tabParse_error h

theorem applyHufDec_writes (s : State) : WritesBuffers [.invalidCode, .corruptBlock] s s.applyHufDec := by
  cases h : hufDec s.codes (capR s.cfg s.mode) s.pay with
  | ok R => rw [applyHufDec_of_ok h]; exact ⟨rfl, .inl rfl, .inl rfl⟩
  | error k => rw [applyHufDec_of_error h]; exact mem_of_hufDec_error h

/-! ### The stages -/

theorem execSplit_stageStep (s : State) : ∃ t, exec .split s = .next t ∧ StageStep .split s t := by
  obtain ⟨b, rest, -, -, hin, h⟩ | ⟨-, -, -, h⟩ | ⟨-, h⟩ := execSplit_cases s <;> refine ⟨_, h, ?_⟩
  · exact .pop b rest { s with blk := s.blk ++ [b] } ⟨.inl rfl, .inl rfl⟩ (.inl rfl) hin
  · exact .refl _ s
  · exact .move .split .bwt s (.refl s) rfl (by decide)

theorem exec_bwt_stageStep (s : State) : ∃ t, exec .bwt s = .next t ∧ StageStep .bwt s t := by
  cases hmode : s.mode with
  | explicitIndex =>
    rw [exec_bwt_explicitIndex hmode]
    exact (applyBwtFwdExplicit_writes s).settle_moveTo (by decide) nofun
  | sentinel =>
    rw [exec_bwt_sentinel hmode]
    exact (applyBwtFwdSentinel_writes s).settle_moveTo (by decide) (by decide)

theorem pushPending_stageStep (s : State) {i : Instr} (hi : i = .framed ∨ i = .join) : StageStep i s s.pushPending := by
  obtain ⟨-, h⟩ | ⟨b, rest, -, hroom, h⟩ | ⟨-, -, h⟩ := s.pushPending_cases <;> rw [h]
  · exact .commit hi
  · exact .push b { s with pend := rest } ⟨.inl rfl, .inl rfl⟩ hi hroom
  · exact .refl i s

theorem drainStep_stageStep (s : State) : StageStep .drain s s.drainStep := by
  obtain ⟨hrem, h⟩ | ⟨b, rest, -, hin, h⟩ | ⟨-, -, h⟩ := s.drainStep_cases <;> rw [h]
  · exact .endDrain rfl hrem
  · exact .pop b rest s (.refl s) (.inr (.inr rfl)) hin
  · exact .refl _ s

theorem takeFieldByte_stageStep (s : State) : StageStep .unframe s s.takeFieldByte := by
  obtain ⟨-, h⟩ | ⟨b, rest, hin, h⟩ := s.takeFieldByte_cases <;> rw [h]
  · exact .refl _ s
  · exact .pop b rest { s with fbuf := s.fbuf ++ [b], need := s.need - 1 } ⟨.inl rfl, .inl rfl⟩ (.inr (.inl rfl)) hin

theorem takeTabByte_stageStep (s : State) : StageStep .unframe s s.takeTabByte := by
  obtain ⟨-, h⟩ | ⟨b, rest, hin, h⟩ := s.takeTabByte_cases <;> rw [h]
  · exact .refl _ s
  · exact .pop b rest { s with tab := s.tab ++ [b], need := s.need - 1 } ⟨.inl rfl, .inl rfl⟩ (.inr (.inl rfl)) hin

theorem takePayByte_stageStep (s : State) : StageStep .unframe s s.takePayByte := by
  obtain ⟨-, h⟩ | ⟨b, rest, hin, h⟩ := s.takePayByte_cases <;> rw [h]
  · exact .refl _ s
  · exact .pop b rest { s with pay := s.pay ++ [b], need := s.need - 1 } ⟨.inl rfl, .inl rfl⟩ (.inr (.inl rfl)) hin

theorem raise_stageStep (s : State) {i : Instr} {k : ErrKind} {S : Stage} (hrow : (i, k, S) ∈ raiseTable) :
    StageStep i s (s.raise k S) := .raise k S s (.refl s) hrow

/-- A step of UNFRAME that only sets buffers and marks. -/
theorem StageStep.mark {i : Instr} {s t : State} (h : t = s.withBuffers t) (halpha : t.alpha = s.alpha)
    (hcodes : t.codes = s.codes) : StageStep i s t := by
  rw [h]
  exact .keep t ⟨.inl halpha, .inl hcodes⟩

theorem checkFour_stageStep (f : FrameField) (s : State) : StageStep .unframe s (s.checkFour f) :=
  .ite (raise_stageStep s (by decide)) (.mark rfl rfl rfl)

theorem checkTabLen_stageStep (s : State) : StageStep .unframe s s.checkTabLen :=
  .ite (raise_stageStep s (by decide)) (.ite (raise_stageStep s (by decide)) (.mark rfl rfl rfl))

theorem checkPayLen_stageStep (s : State) : StageStep .unframe s s.checkPayLen :=
  .ite (raise_stageStep s (by decide)) (.ite (raise_stageStep s (by decide)) (.mark rfl rfl rfl))

theorem unframeStep_stageStep (s : State) : StageStep .unframe s s.unframeStep := by
  rw [State.unframeStep]
  cases s.field with
  | idxCheck | tabLenCheck | payLenCheck => exact checkFour_stageStep _ s
  | idx => exact .ite (.mark rfl rfl rfl) (takeFieldByte_stageStep s)
  | tabLen => exact .ite (checkTabLen_stageStep s) (takeFieldByte_stageStep s)
  | tab => exact .ite (.mark rfl rfl rfl) (takeTabByte_stageStep s)
  | payLen => exact .ite (checkPayLen_stageStep s) (takeFieldByte_stageStep s)
  | pay => exact .ite (.move .unframe .entropyInv s (.refl s) rfl (by decide)) (takePayByte_stageStep s)

theorem exec_entropy_stageStep (s : State) : ∃ t, exec .entropy s = .next t ∧ StageStep .entropy s t :=
  ⟨_, exec_entropy s, .move .entropy .framed
    { s with
      codes := buildCodes s.pairR
      tab := (hufEnc s.pairR).1
      pay := (hufEnc s.pairR).2
      pend := frameBytes s.mode s.pidx (hufEnc s.pairR).1 (hufEnc s.pairR).2 }
    ⟨.inl rfl, .inr (buildCodes_legal s.pairR)⟩ rfl (by decide)⟩

/-- ENTROPY_INV: whatever HUF_DEC does, the parsed code map stays (assumption log 19). -/
theorem exec_entropyInv_stageStep (s : State) : ∃ t, exec .entropyInv s = .next t ∧ StageStep .entropyInv s t := by
  cases htab : tabParse s.tab with
  | error k =>
    have hrow : ∀ k ∈ [ErrKind.malformedCodeTable], (Instr.entropyInv, k, Stage.entropyInv) ∈ raiseTable := by decide
    exact ⟨_, exec_entropyInv_of_no_table htab, raise_stageStep s (hrow k (mem_of_tabParse_error htab))⟩
  | ok c =>
    have hlegal := (legalCodes_of_tabParse htab).1
    rw [exec_entropyInv_of_table htab]
    cases hdec : hufDec c (capR s.cfg s.mode) s.pay with
    | ok R =>
      rw [applyHufDec_of_ok hdec]
      exact ⟨_, rfl, .move .entropyInv .rleInv { s with codes := c, pairR := R } ⟨.inl rfl, .inr hlegal⟩ rfl (by decide)⟩
    | error k =>
      have hrow : ∀ k ∈ [ErrKind.invalidCode, .corruptBlock], (Instr.entropyInv, k, Stage.entropyInv) ∈ raiseTable := by
        decide
      rw [applyHufDec_of_error hdec]
      exact ⟨_, rfl, .raise k .entropyInv { s with codes := c } ⟨.inl rfl, .inr hlegal⟩ (hrow k (mem_of_hufDec_error hdec))⟩

/-- Queueing the block for JOIN writes one more buffer (44_pipeline.md R144). -/
theorem WritesBuffers.queueBlock {ks : List ErrKind} {s : State} {r : Except ErrKind State} (h : WritesBuffers ks s r) :
    WritesBuffers ks s (r.map State.queueBlock) :=
  match r, h with
  | .ok _, ⟨heq, hb⟩ => ⟨by rw [heq]; rfl, hb.alpha, hb.codes⟩
  | .error _, h => h

theorem exec_bwtInv_eq (s : State) :
    exec .bwtInv s = s.settle .bwtInv (moveTo .join
      ((if s.mode = .explicitIndex then s.applyBwtInvExplicit else s.applyBwtInvSentinel).map State.queueBlock)) := by
  simp only [exec, execBwtInv]
  cases s.mode with
  | explicitIndex => cases s.applyBwtInvExplicit <;> rfl
  | sentinel => cases s.applyBwtInvSentinel <;> rfl

theorem exec_bwtInv_stageStep (s : State) : ∃ t, exec .bwtInv s = .next t ∧ StageStep .bwtInv s t := by
  rw [exec_bwtInv_eq]
  refine WritesBuffers.settle_moveTo (ks := [.corruptBlock]) (WritesBuffers.queueBlock ?_) (by decide) (by decide)
  split
  · exact applyBwtInvExplicit_writes s
  · exact applyBwtInvSentinel_writes s

/-! ### The host's actions -/

/-- What a command or a register write can do (45_commands.md R154, R162). -/
inductive WriteStep (i : Instr) (s : State) : State → Prop
  | nothing : WriteStep i s s
  | start (o : Op) (hbusy : s.busy = false) : WriteStep i s (s.commandStart o)
  | refuse (hi : (∃ v, i = .reservedCmd v) ∨ (s.busy = true ∧ (i = .compress ∨ i = .decompress)) ∨
      ∃ v, i = .regWrite 0x10 v ∧ (4 ≤ v.toNat ∨ (s.busy = true ∧ (v.toNat = 1 ∨ v.toNat = 2)))) :
      WriteStep i s s.refuseCommand
  | abort (hbusy : s.busy = true) :
      WriteStep i s { s with inFifo := [], aborted := true, busy := false, stage := .idle, boundary := false }
  | ctrl (v : Word) : WriteStep i s { s with ctrl := v &&& 7 }
  | blockSize (v : Word) (hpos : 1 ≤ v.toNat) (hmax : v.toNat ≤ s.cfg.maxBlockSize) : WriteStep i s { s with blockSize := v }
  | inLen (v : Word) : WriteStep i s { s with inLen := v }
  | w1c (v : Word) (hi : i = .regWrite 0x14 v) : WriteStep i s (s.w1c v)

/-- What a CMD or HOST row can do; the answer to the host is the model's (assumption log 4). -/
inductive HostStep (i : Instr) (s : State) : State → Prop
  | write (t : State) (r : Response) (h : WriteStep i s t) : HostStep i s (t.setResp r)
  | push (b : Byte) (hready : s.inReady = true) : HostStep i s (s.acceptIn b)
  | pop (x : Byte) (rest : List Byte) (hout : s.outFifo = x :: rest) :
      HostStep i s { s with outFifo := rest, resp := .byte x }
  | reset (hi : i = .reset) : HostStep i s s.resetInput

/-- A command on its own answers nothing. -/
theorem WriteStep.hostStep {i : Instr} {s t : State} (h : WriteStep i s t) : HostStep i s t := .write t t.resp h

theorem HostStep.answer (i : Instr) (s : State) (r : Response) : HostStep i s (s.setResp r) := .write s r .nothing

theorem startOrRefuse_writeStep (o : Op) (s : State) {i : Instr}
    (hi : s.busy = true → (i = .compress ∨ i = .decompress) ∨ ∃ v, i = .regWrite 0x10 v ∧ (v.toNat = 1 ∨ v.toNat = 2)) :
    WriteStep i s (s.startOrRefuse o) := by
  cases hbusy : s.busy with
  | false => rw [s.startOrRefuse_idle o hbusy]; exact .start o hbusy
  | true =>
    rw [s.startOrRefuse_busy o hbusy]
    refine .refuse (.inr ((hi hbusy).imp (⟨hbusy, ·⟩) ?_))
    rintro ⟨v, rfl, hv⟩
    exact ⟨v, rfl, .inr ⟨hbusy, hv⟩⟩

theorem abort_writeStep (s : State) (i : Instr) : WriteStep i s s.abort := by
  cases hbusy : s.busy with
  | false => rw [s.abort_idle hbusy]; exact .nothing
  | true => rw [s.abort_busy hbusy]; exact .abort hbusy

theorem commandWrite_writeStep (v : Word) (s : State) : WriteStep (.regWrite 0x10 v) s (s.commandWrite v) := by
  obtain ⟨-, h⟩ | ⟨h1, h⟩ | ⟨h2, h⟩ | ⟨-, h⟩ | ⟨h4, h⟩ := s.commandWrite_cases v <;> rw [h]
  · exact .nothing
  · exact startOrRefuse_writeStep _ s fun _ => .inr ⟨v, rfl, .inl h1⟩
  · exact startOrRefuse_writeStep _ s fun _ => .inr ⟨v, rfl, .inr h2⟩
  · exact abort_writeStep s _
  · exact .refuse (.inr (.inr ⟨v, rfl, .inl h4⟩))

theorem writeReg_writeStep (off : BitVec 6) (v : Word) (s : State) : WriteStep (.regWrite off v) s (s.writeReg off v) := by
  obtain ⟨-, h⟩ | ⟨-, hpos, hmax, h⟩ | ⟨-, h⟩ | ⟨hoff, h⟩ | ⟨hoff, h⟩ | h := s.writeReg_cases off v <;> rw [h]
  · exact .ctrl v
  · exact .blockSize v hpos hmax
  · exact .inLen v
  · exact hoff ▸ commandWrite_writeStep v s
  · exact .w1c v (by rw [hoff])
  · exact .nothing

theorem busWrite_hostStep (off : BitVec 6) (v : Word) (s : State) : HostStep (.regWrite off v) s (s.busWrite off v) := by
  rw [State.busWrite]
  split
  · exact .write _ _ (writeReg_writeStep off v s)
  · exact .answer _ s _

theorem busRead_hostStep (off : BitVec 6) (s : State) (i : Instr) : HostStep i s (s.busRead off) := by
  rw [State.busRead]
  split <;> exact .answer _ s _

theorem hostPush_hostStep (b : Byte) (s : State) (i : Instr) : HostStep i s (s.hostPush b) := by
  obtain ⟨hready, h⟩ | ⟨-, h⟩ := s.hostPush_cases b <;> rw [h]
  · exact .push b hready
  · exact .answer _ s _

theorem hostPop_hostStep (s : State) (i : Instr) : HostStep i s s.hostPop := by
  obtain ⟨-, h⟩ | ⟨b, rest, hout, h⟩ := s.hostPop_cases <;> rw [h]
  · exact .answer _ s _
  · exact .pop b rest hout

/-! ### Every instruction and every step -/

/-- Every STAGE row. -/
theorem exec_instr_stageStep (S : Stage) (s : State) : ∃ t, exec S.instr s = .next t ∧ StageStep S.instr s t := by
  cases S with
  | idle => exact ⟨s, rfl, .refl _ s⟩
  | split => exact execSplit_stageStep s
  | bwt => exact exec_bwt_stageStep s
  | mtf => exact (applyMtfEnc_writes s).settle_moveTo (by decide) nofun
  | rle => exact (applyRleEnc_writes s).settle_moveTo (by decide) nofun
  | entropy => exact exec_entropy_stageStep s
  | framed => exact ⟨_, rfl, pushPending_stageStep s (.inl rfl)⟩
  | join => exact ⟨_, rfl, pushPending_stageStep s (.inr rfl)⟩
  | unframe => exact ⟨_, rfl, unframeStep_stageStep s⟩
  | entropyInv => exact exec_entropyInv_stageStep s
  | rleInv => exact (applyRleDec_writes s).settle_moveTo (by decide) (by decide)
  | mtfInv => exact (applyMtfDec_writes s).settle_moveTo (by decide) nofun
  | bwtInv => exact exec_bwtInv_stageStep s
  | drain => exact ⟨_, rfl, drainStep_stageStep s⟩

/-- Every instruction answers a next state, and it is one of the above. -/
theorem exec_cases (i : Instr) (s : State) : ∃ t, exec i s = .next t ∧ (StageStep i s t ∨ HostStep i s t) := by
  have stage {i : Instr} (h : ∃ t, exec i s = .next t ∧ StageStep i s t) :
      ∃ t, exec i s = .next t ∧ (StageStep i s t ∨ HostStep i s t) := h.imp fun _ => And.imp_right .inl
  cases i with
  | nop => exact ⟨s, rfl, .inr (WriteStep.hostStep .nothing)⟩
  | compress => exact ⟨_, rfl, .inr (startOrRefuse_writeStep _ s fun _ => .inl (.inl rfl)).hostStep⟩
  | decompress => exact ⟨_, rfl, .inr (startOrRefuse_writeStep _ s fun _ => .inl (.inr rfl)).hostStep⟩
  | abort => exact ⟨_, rfl, .inr (abort_writeStep s _).hostStep⟩
  | reservedCmd v => exact ⟨_, rfl, .inr (WriteStep.refuse (.inl ⟨v, rfl⟩)).hostStep⟩
  | idle => exact stage (exec_instr_stageStep .idle s)
  | split => exact stage (exec_instr_stageStep .split s)
  | bwt => exact stage (exec_instr_stageStep .bwt s)
  | mtf => exact stage (exec_instr_stageStep .mtf s)
  | rle => exact stage (exec_instr_stageStep .rle s)
  | entropy => exact stage (exec_instr_stageStep .entropy s)
  | framed => exact stage (exec_instr_stageStep .framed s)
  | unframe => exact stage (exec_instr_stageStep .unframe s)
  | entropyInv => exact stage (exec_instr_stageStep .entropyInv s)
  | rleInv => exact stage (exec_instr_stageStep .rleInv s)
  | mtfInv => exact stage (exec_instr_stageStep .mtfInv s)
  | bwtInv => exact stage (exec_instr_stageStep .bwtInv s)
  | join => exact stage (exec_instr_stageStep .join s)
  | drain => exact stage (exec_instr_stageStep .drain s)
  | bwtFwdExplicit => exact stage ((applyBwtFwdExplicit_writes s).settle (S := .bwt) nofun)
  | bwtFwdSentinel => exact stage ((applyBwtFwdSentinel_writes s).settle (by decide))
  | bwtInvExplicit => exact stage ((applyBwtInvExplicit_writes s).settle (by decide))
  | bwtInvSentinel => exact stage ((applyBwtInvSentinel_writes s).settle (by decide))
  | mtfEnc => exact stage ((applyMtfEnc_writes s).settle (S := .mtf) nofun)
  | mtfDec => exact stage ((applyMtfDec_writes s).settle (S := .mtfInv) nofun)
  | rleEnc => exact stage ((applyRleEnc_writes s).settle (S := .rle) nofun)
  | rleDec => exact stage ((applyRleDec_writes s).settle (by decide))
  | hufEnc => exact stage ((applyHufEnc_writes s).settle (S := .entropy) nofun)
  | hufDec => exact stage ((applyHufDec_writes s).settle (by decide))
  | tabParse => exact stage ((applyTabParse_writes s).settle (by decide))
  | regRead off => exact ⟨_, rfl, .inr (busRead_hostStep off s _)⟩
  | regWrite off v => exact ⟨_, rfl, .inr (busWrite_hostStep off v s)⟩
  | inPush b => exact ⟨_, rfl, .inr (hostPush_hostStep b s _)⟩
  | outPop => exact ⟨_, rfl, .inr (hostPop_hostStep s _)⟩
  | reset => exact ⟨_, rfl, .inr (.reset rfl)⟩

/-- A turn of the host is the row its action decodes to, or a bus error (45_commands.md R168; 20_memory.md R62). -/
theorem hostTurn_hostStep (h : HostOp) (s : State) : ∃ t i, hostTurn h s = .next t ∧ HostStep i s t := by
  cases h with
  | command v =>
    obtain rfl | rfl | rfl | rfl | hv := command_cases v
    · exact ⟨s, .nop, rfl, WriteStep.hostStep .nothing⟩
    · exact ⟨_, .compress, rfl, (startOrRefuse_writeStep _ s fun _ => .inl (.inl rfl)).hostStep⟩
    · exact ⟨_, .decompress, rfl, (startOrRefuse_writeStep _ s fun _ => .inl (.inr rfl)).hostStep⟩
    · exact ⟨_, .abort, rfl, (abort_writeStep s _).hostStep⟩
    · refine ⟨s.refuseCommand, .reservedCmd v, ?_, (WriteStep.refuse (.inl ⟨v, rfl⟩)).hostStep⟩
      simp only [hostTurn, decode, decodeHost, decodeCommand_reserved hv]
      rfl
  | read addr size =>
    by_cases h : legalAccess addr size = true
    · exact ⟨_, .nop, by simp only [hostTurn, decode, decodeHost, h]; rfl, busRead_hostStep (offsetOf addr) s _⟩
    · exact ⟨_, .nop, by simp only [hostTurn, decode, decodeHost, h]; rfl, .answer _ s (.readError 0)⟩
  | write addr lanes =>
    by_cases h : legalAccess addr lanes.length = true
    · exact ⟨_, _, by simp only [hostTurn, decode, decodeHost, h]; rfl,
        busWrite_hostStep (offsetOf addr) (wordOfLanes lanes) s⟩
    · exact ⟨_, .nop, by simp only [hostTurn, decode, decodeHost, h]; rfl, .answer _ s .writeError⟩
  | push b => exact ⟨_, .inPush b, rfl, hostPush_hostStep b s _⟩
  | pop => exact ⟨_, .outPop, rfl, hostPop_hostStep s _⟩
  | reset => exact ⟨_, .reset, rfl, .reset rfl⟩

/-- What a step can do, from the state `u` with the turn taken off. -/
inductive StepCase (u : State) : State → Prop
  | idle (hbusy : u.busy = false) : StepCase u u
  | boundary (hbusy : u.busy = true) (hbound : u.boundary = true) : StepCase u u.boundaryStep
  | stage (t : State) (hbusy : u.busy = true) (hbound : u.boundary = false)
      (hexec : exec u.stage.instr u = .next t) (h : StageStep u.stage.instr u t) : StepCase u t
  | host (i : Instr) (t : State) (h : HostStep i u t) : StepCase u t

theorem engineTurn_stepCase (u : State) : ∃ t, engineTurn u = .next t ∧ StepCase u t := by
  cases hbusy : u.busy with
  | false => exact ⟨u, engineTurn_idle u hbusy, .idle hbusy⟩
  | true =>
    cases hbound : u.boundary with
    | true => exact ⟨_, engineTurn_boundary u hbusy hbound, .boundary hbusy hbound⟩
    | false =>
      obtain ⟨t, ht, hstep⟩ := exec_instr_stageStep u.stage u
      exact ⟨t, (engineTurn_stage u hbusy hbound).trans ht, .stage t hbusy hbound ht hstep⟩

/-- Every step answers a next state, and it is one of the cases, after the turn is taken off the schedule. -/
theorem step_stepCase (s : State) : ∃ l t, step s = .next t ∧ StepCase (s.setSched l) t := by
  unfold step
  split
  · exact ⟨s.sched, engineTurn_stepCase s⟩
  · exact ⟨_, engineTurn_stepCase _⟩
  · rename_i h rest _
    obtain ⟨t, i, ht, hstep⟩ := hostTurn_hostStep h (s.setSched rest)
    exact ⟨rest, t, ht, .host i t hstep⟩

theorem stepCase_of_step {s t : State} (h : step s = .next t) : ∃ l, StepCase (s.setSched l) t := by
  obtain ⟨l, t', ht', hcase⟩ := step_stepCase s
  obtain rfl : t' = t := Host.Outcome.next.inj (ht'.symm.trans h)
  exact ⟨l, hcase⟩

end Sys2Proof.Machine
end

section
/-! PROOF. The invariant of CORE (10_state.md; 44_pipeline.md section 1): each thing a step can do keeps it. -/

namespace Sys2Proof.Machine

/-! ### The stage codes -/

theorem encode_instr (S : Stage) : encode S.instr = .stage S.code := by cases S <;> rfl

/-- Different stages have different instructions (10_state.md R36). -/
theorem Stage.instr_injective : Function.Injective Stage.instr := by
  intro S S' h
  have hcode : Code.stage S.code = .stage S'.code := by rw [← encode_instr, ← encode_instr, h]
  have hstage := congrArg Stage.ofCode? (Code.stage.inj hcode)
  rwa [Stage.ofCode?_code, Stage.ofCode?_code, Option.some.injEq] at hstage

theorem Stage.pushes_iff (S : Stage) : S.pushes = true ↔ S.instr = .framed ∨ S.instr = .join := by
  cases S <;> decide

/-- What the rows of the move table have in common: neither end is IDLE or DRAIN, the source pushes nothing, and both ends
are of one direction. -/
theorem moveTable_rows : ∀ p ∈ moveTable, p.1 ≠ .drain ∧ p.1.pushes = false ∧ p.2 ≠ .idle ∧ p.2 ≠ .drain ∧
    p.1.ofCompress = p.2.ofCompress ∧ p.1.ofDecompress = p.2.ofDecompress := by decide

/-- No stage that pushes output raises (60_exceptions.md R170). -/
theorem raiseTable_rows : ∀ r ∈ raiseTable, r.1 ≠ .framed ∧ r.1 ≠ .join := by decide

/-! ### Each change of the state -/

theorem IsAlphabet.ok {A : List Byte} (h : IsAlphabet A) : A.length = 256 ∧ A.Nodup := ⟨h.length_eq, h.nodup⟩

theorem BuffersFrom.alphabet_ok {s b : State} (h : BuffersFrom s b) (hs : s.alpha.length = 256 ∧ s.alpha.Nodup) :
    b.alpha.length = 256 ∧ b.alpha.Nodup := by
  obtain halpha | halpha := h.alpha
  · rwa [halpha]
  · exact halpha.ok

/-- The invariant says nothing of the buffers but that the alphabet is a permutation. -/
theorem State.Inv.withBuffers {s b : State} (h : s.Inv) (hb : b.alpha.length = 256 ∧ b.alpha.Nodup) :
    (s.withBuffers b).Inv := by
  obtain ⟨hcfg, hreg, hports, ⟨hbusy, hcomp, hdec, herrored, hbound, hbs, -⟩, hends⟩ := h
  exact ⟨hcfg, hreg, hports, ⟨hbusy, hcomp, hdec, herrored, hbound, hbs, hb⟩, hends⟩

theorem State.Inv.alphabet_ok {s : State} (h : s.Inv) : s.alpha.length = 256 ∧ s.alpha.Nodup := by
  obtain ⟨-, -, -, ⟨-, -, -, -, -, -, halpha⟩, -⟩ := h
  exact halpha

theorem State.Inv.done_eq_false {s : State} (h : s.Inv) (hbusy : s.busy = true) : s.done = false := by
  obtain ⟨-, -, -, -, hdone, -, -⟩ := h
  by_contra hne
  exact absurd (hdone (by simpa using hne)).1 (by simp [hbusy])

theorem State.Inv.inPorts {s : State} (h : s.Inv) (hbusy : s.busy = true) :
    s.inCount.toNat + s.inFifo.length = s.inAccepted.toNat ∧ s.inAccepted.toNat ≤ s.latLen.toNat := by
  obtain ⟨-, -, ⟨-, -, hlen, -, hfifo, -⟩, -, -⟩ := h
  exact ⟨hfifo hbusy, hlen⟩

/-- A byte in the IN FIFO is input that is not consumed yet, so IN_COUNT goes up by one without wrapping. -/
theorem State.Inv.inCount_add_one {s : State} (h : s.Inv) (hbusy : s.busy = true) {x : Byte} {rest : List Byte}
    (hin : s.inFifo = x :: rest) :
    (s.inCount + 1).toNat = s.inCount.toNat + 1 ∧ s.inCount.toNat + 1 + rest.length = s.inAccepted.toNat := by
  obtain ⟨hfifo, hlen⟩ := h.inPorts hbusy
  have hlast := s.latLen.isLt
  rw [hin, List.length_cons] at hfifo
  have hless : s.inCount.toNat + 1 < 2 ^ 32 := by omega
  exact ⟨BitVec.toNat_add_of_lt hless, by omega⟩

/-- When every input byte is consumed, IN_COUNT is the latched length and the IN FIFO is empty. -/
theorem State.Inv.input_spent {s : State} (h : s.Inv) (hbusy : s.busy = true) (hrem : s.rem = 0) :
    s.inCount = s.latLen ∧ s.inFifo = [] := by
  obtain ⟨hfifo, hlen⟩ := h.inPorts hbusy
  have hle := (State.rem_eq_zero s).mp hrem
  exact ⟨BitVec.eq_of_toNat_eq (by omega), List.length_eq_zero_iff.mp (by omega)⟩

/-- At a due boundary step no error is pending (44_pipeline.md R132). -/
theorem State.Inv.boundary_facts {s : State} (h : s.Inv) (hbusy : s.busy = true) (hbound : s.boundary = true) :
    s.errored = false ∧ s.err = false ∧ s.outCommit = s.outCount := by
  obtain ⟨-, -, -, ⟨-, -, -, herrored, hat, -, -⟩, -, herr, hcommit⟩ := h
  have hdrain : s.stage ≠ .drain := fun hd => absurd (hat hbound) (by rw [hd]; decide)
  have hfalse : s.errored = false := by
    by_contra hne
    exact hdrain ((herrored hbusy).mp (by simpa using hne))
  refine ⟨hfalse, ?_, hcommit hbusy (.inr hbound)⟩
  by_contra hne
  exact absurd (herr (by simpa using hne)) (by simp [hfalse])

theorem State.Inv.popped {s : State} (h : s.Inv) (hbusy : s.busy = true) {x : Byte} {rest : List Byte}
    (hin : s.inFifo = x :: rest) : (s.popped rest).Inv := by
  obtain ⟨hcount, hfifo⟩ := h.inCount_add_one hbusy hin
  have hdone := h.done_eq_false hbusy
  obtain ⟨hcfg, hreg, ⟨hdepth, hout, hlen, -, -, -⟩, hseq, -, herr, hcommit⟩ := h
  rw [hin, List.length_cons] at hdepth
  refine ⟨hcfg, hreg, ⟨by simp only [State.popped]; omega, hout, hlen, ?_, fun _ => ?_, ?_⟩, hseq, ?_, herr, hcommit⟩
  · simp only [State.popped, hcount]; omega
  · simp only [State.popped, hcount]; omega
  · simp [State.popped, hbusy]
  · simp [State.popped, hdone]

theorem State.Inv.setStage {s : State} (h : s.Inv) (hbusy : s.busy = true) (hbound : s.boundary = false) {S' : Stage}
    (hrow : (s.stage, S') ∈ moveTable) : (s.setStage S').Inv := by
  have hdone := h.done_eq_false hbusy
  obtain ⟨hcfg, hreg, hports, ⟨-, hcomp, hdec, herrored, -, hbs, halpha⟩, -, herr, hcommit⟩ := h
  obtain ⟨hdrain, hpush, hidle', hdrain', hc, hd⟩ := moveTable_rows _ hrow
  have hno : s.errored ≠ true := fun h => hdrain ((herrored hbusy).mp h)
  refine ⟨hcfg, hreg, hports, ⟨by simp [hbusy, hidle'], fun h => hcomp (hc.trans h), fun h => hdec (hd.trans h),
    by simp [hno, hdrain'], by simp [hbound], hbs, halpha⟩, by simp [hdone], herr, fun _ _ => hcommit hbusy (.inl hpush)⟩

theorem State.Inv.raise {s : State} (h : s.Inv) (hbusy : s.busy = true) (hbound : s.boundary = false) {k : ErrKind}
    {S : Stage} (hrow : (s.stage.instr, k, S) ∈ raiseTable) : (s.raise k S).Inv := by
  have hdone := h.done_eq_false hbusy
  obtain ⟨hcfg, ⟨hctrl, hbs, -⟩, hports, ⟨-, -, -, -, -, hlat, halpha⟩, -, -, hcommit⟩ := h
  have hpush : s.stage.pushes = false := by
    obtain ⟨hframed, hjoin⟩ := raiseTable_rows _ hrow
    by_contra hne
    exact ((Stage.pushes_iff _).mp (by simpa using hne)).elim hframed hjoin
  refine ⟨hcfg, ⟨hctrl, hbs, .inr (List.mem_map.mpr ⟨_, hrow, rfl⟩)⟩, hports,
    ⟨by simp [hbusy], nofun, nofun, by simp, by simp [hbound], hlat, halpha⟩, by simp [hdone], by simp,
    fun _ _ => hcommit hbusy (.inl hpush)⟩

theorem State.Inv.outPush {s : State} (h : s.Inv) (hbusy : s.busy = true) (hbound : s.boundary = false)
    (hpush : s.stage.pushes = true) (hroom : s.outRoom = true) (x : Byte) : (s.outPush x).Inv := by
  have hdone := h.done_eq_false hbusy
  rw [State.outRoom_iff] at hroom
  obtain ⟨hcfg, hreg, ⟨hin, -, hports⟩, hseq, -, herr, -⟩ := h
  refine ⟨hcfg, hreg, ⟨hin, ?_, hports⟩, hseq, by simp [State.outPush, hdone], herr, ?_⟩
  · simpa [State.outPush] using hroom
  · simp [State.outPush, hpush, hbound]

theorem State.Inv.commitBlock {s : State} (h : s.Inv) (hbusy : s.busy = true) (hpush : s.stage.pushes = true) :
    s.commitBlock.Inv := by
  have hdone := h.done_eq_false hbusy
  have hat : s.stage.atBoundary = true := by
    obtain hi | hi := (Stage.pushes_iff _).mp hpush
    · rw [Stage.instr_injective (hi.trans (rfl : _ = Stage.framed.instr))]; rfl
    · rw [Stage.instr_injective (hi.trans (rfl : _ = Stage.join.instr))]; rfl
  obtain ⟨hcfg, hreg, hports, ⟨hidle, hcomp, hdec, herrored, -, hlat, halpha⟩, -, herr, -⟩ := h
  exact ⟨hcfg, hreg, hports, ⟨hidle, hcomp, hdec, herrored, fun _ => hat, hlat, halpha⟩, by simp [hdone], herr,
    fun _ _ => rfl⟩

theorem State.Inv.endDrain {s : State} (h : s.Inv) (hbusy : s.busy = true) (hbound : s.boundary = false)
    (hrem : s.rem = 0) : s.endDrain.Inv := by
  have hdone := h.done_eq_false hbusy
  obtain ⟨-, hnil⟩ := h.input_spent hbusy hrem
  obtain ⟨hcfg, hreg, ⟨hin, hout, hlen, hcnt, -, -⟩, ⟨-, -, -, -, -, hlat, halpha⟩, -, herr, -⟩ := h
  refine ⟨hcfg, hreg, ⟨hin, hout, hlen, hcnt, nofun, fun _ => hnil⟩,
    ⟨by simp [State.endDrain], nofun, nofun, nofun, by simp [State.endDrain, hbound], hlat, halpha⟩,
    by simp [State.endDrain, hdone], herr, nofun⟩

/-! ### The block boundary -/

theorem State.Inv.endDone {s : State} (h : s.Inv) (hbusy : s.busy = true) (hbound : s.boundary = true)
    (hrem : s.rem = 0) : s.endDone.Inv := by
  obtain ⟨hcount, hnil⟩ := h.input_spent hbusy hrem
  obtain ⟨hno, -, hcommit⟩ := h.boundary_facts hbusy hbound
  obtain ⟨hcfg, hreg, ⟨hin, hout, hlen, hcnt, -, -⟩, ⟨-, -, -, -, -, hlat, halpha⟩, -, herr, -⟩ := h
  exact ⟨hcfg, hreg, ⟨hin, hout, hlen, hcnt, nofun, fun _ => hnil⟩,
    ⟨by simp [State.endDone], nofun, nofun, nofun, nofun, hlat, halpha⟩,
    fun _ => ⟨rfl, hcount, hcommit, hno⟩, herr, nofun⟩

/-- Entering the first stage of the command's direction. -/
theorem State.Inv.enter {s t : State} (h : s.Inv) (hbusy : s.busy = true) (hbound : s.boundary = true)
    (ht : t = State.withBuffers { s with stage := t.stage, boundary := false } t) (halpha : t.alpha = s.alpha)
    (hstage : (t.stage = .split ∧ s.op = .compress) ∨ (t.stage = .unframe ∧ s.op = .decompress)) : t.Inv := by
  have hdone := h.done_eq_false hbusy
  obtain ⟨hno, -, hcommit⟩ := h.boundary_facts hbusy hbound
  have hok := h.alphabet_ok
  obtain ⟨hcfg, hreg, hports, ⟨-, -, -, -, -, hlat, -⟩, -, herr, -⟩ := h
  have hinv (S : Stage) (hS : (S = .split ∧ s.op = .compress) ∨ (S = .unframe ∧ s.op = .decompress)) :
      State.Inv { s with stage := S, boundary := false } := by
    refine ⟨hcfg, hreg, hports, ?_, by simp [hdone], herr, fun _ _ => hcommit⟩
    obtain ⟨rfl, hop⟩ | ⟨rfl, hop⟩ := hS
    · exact ⟨by simp [hbusy], fun _ => hop, nofun, by simp [hno], nofun, hlat, hok⟩
    · exact ⟨by simp [hbusy], nofun, fun _ => hop, by simp [hno], nofun, hlat, hok⟩
  rw [ht]
  exact (hinv _ hstage).withBuffers (halpha ▸ hok)

theorem State.Inv.boundaryStep {s : State} (h : s.Inv) (hbusy : s.busy = true) (hbound : s.boundary = true) :
    s.boundaryStep.Inv := by
  obtain ⟨hrem, hb⟩ | ⟨-, hop, hb⟩ | ⟨-, hop, hb⟩ := s.boundaryStep_cases <;> rw [hb]
  · exact h.endDone hbusy hbound hrem
  · exact h.enter hbusy hbound rfl rfl (.inl ⟨rfl, hop⟩)
  · exact h.enter hbusy hbound rfl rfl (.inr ⟨rfl, hop⟩)

/-! ### A stage and a host action -/

theorem State.Inv.stageStep {s t : State} (h : s.Inv) (hbusy : s.busy = true) (hbound : s.boundary = false)
    (hstep : StageStep s.stage.instr s t) : t.Inv := by
  have hok := h.alphabet_ok
  cases hstep with
  | keep b hb => exact h.withBuffers (hb.alphabet_ok hok)
  | pop x rest b hb hi hin => exact (h.popped hbusy hin).withBuffers (hb.alphabet_ok hok)
  | move S S' b hb hi hrow =>
    obtain rfl := Stage.instr_injective hi
    exact (h.setStage hbusy hbound hrow).withBuffers (hb.alphabet_ok hok)
  | raise k S b hb hrow => exact (h.raise hbusy hbound hrow).withBuffers (hb.alphabet_ok hok)
  | push x b hb hi hroom =>
    exact (h.outPush hbusy hbound ((Stage.pushes_iff _).mpr hi) hroom x).withBuffers (hb.alphabet_ok hok)
  | commit hi => exact h.commitBlock hbusy ((Stage.pushes_iff _).mpr hi)
  | endDrain hi hrem => exact h.endDrain hbusy hbound hrem

theorem State.resetOf_inv {c : Config} (hc : c.Legal) : (State.resetOf c).Inv := by
  obtain ⟨hpos, hmax, hrest⟩ := hc
  have hsize : (BitVec.ofNat 32 c.maxBlockSize).toNat = c.maxBlockSize := Nat.mod_eq_of_lt (by omega)
  have hlegal : 1 ≤ (BitVec.ofNat 32 c.maxBlockSize).toNat ∧ (BitVec.ofNat 32 c.maxBlockSize).toNat ≤ c.maxBlockSize := by
    omega
  exact ⟨⟨hpos, hmax, hrest⟩, ⟨Nat.zero_lt_succ 7, hlegal, .inl rfl⟩,
    ⟨Nat.zero_le _, Nat.zero_le _, Nat.zero_le _, Nat.zero_le _, nofun, fun _ => rfl⟩,
    ⟨by simp [State.resetOf], nofun, nofun, nofun, nofun, hlegal, identityAlphabet_ok⟩, nofun, nofun, nofun⟩

theorem State.Inv.commandStart {s : State} (h : s.Inv) (hbusy : s.busy = false) (o : Op) : (s.commandStart o).Inv := by
  have hok := h.alphabet_ok
  obtain ⟨hcfg, ⟨hctrl, hbs, -⟩, ⟨-, hout, -, -, -, hempty⟩, -, -, -, -⟩ := h
  refine ⟨hcfg, ⟨hctrl, hbs, .inl rfl⟩, ⟨?_, hout, Nat.zero_le _, le_rfl, fun _ => ?_, nofun⟩, ?_, nofun, nofun,
    fun _ _ => rfl⟩
  · simp [State.commandStart, hempty hbusy]
  · simp [State.commandStart, hempty hbusy]
  · cases o with
    | compress => exact ⟨by simp [State.commandStart], fun _ => rfl, nofun, by simp [State.commandStart], fun _ => rfl, hbs, hok⟩
    | decompress => exact ⟨by simp [State.commandStart], nofun, fun _ => rfl, by simp [State.commandStart], fun _ => rfl, hbs, hok⟩

theorem State.Inv.w1c {s : State} (h : s.Inv) (v : Word) : (s.w1c v).Inv := by
  obtain ⟨hcfg, hreg, hports, hseq, hdone, herr, hcommit⟩ := h
  refine ⟨hcfg, hreg, hports, hseq, fun hd => hdone ?_, fun he => herr ?_, hcommit⟩
  · exact (Bool.and_eq_true_iff.mp hd).1
  · exact (Bool.and_eq_true_iff.mp he).1

theorem State.Inv.writeStep {s t : State} (h : s.Inv) {i : Instr} (hstep : WriteStep i s t) : t.Inv := by
  have hok := h.alphabet_ok
  cases hstep with
  | nothing => exact h
  | start o hbusy => exact h.commandStart hbusy o
  | refuse hi => exact h
  | abort hbusy =>
    have hdone := h.done_eq_false hbusy
    obtain ⟨hcfg, hreg, ⟨-, hout, hlen, hcnt, -, -⟩, ⟨-, -, -, -, -, hlat, -⟩, -, herr, -⟩ := h
    exact ⟨hcfg, hreg, ⟨Nat.zero_le _, hout, hlen, hcnt, nofun, fun _ => rfl⟩,
      ⟨by simp, nofun, nofun, nofun, nofun, hlat, hok⟩, by simp [hdone], herr, nofun⟩
  | ctrl v =>
    obtain ⟨hcfg, ⟨-, hbs, hinfo⟩, hrest⟩ := h
    have hctrl : (v &&& 7).toNat < 8 := by
      rw [BitVec.toNat_and]
      exact Nat.lt_of_le_of_lt Nat.and_le_right (by decide)
    exact ⟨hcfg, ⟨hctrl, hbs, hinfo⟩, hrest⟩
  | blockSize v hpos hmax =>
    obtain ⟨hcfg, ⟨hctrl, -, hinfo⟩, hrest⟩ := h
    exact ⟨hcfg, ⟨hctrl, ⟨hpos, hmax⟩, hinfo⟩, hrest⟩
  | inLen v => exact h
  | w1c v hi => exact h.w1c v

theorem State.Inv.setResp {s : State} (h : s.Inv) (r : Response) : (s.setResp r).Inv := h

theorem State.Inv.hostStep {s t : State} (h : s.Inv) {i : Instr} (hstep : HostStep i s t) : t.Inv := by
  cases hstep with
  | write t r hw => exact (h.writeStep hw).setResp r
  | push b hready =>
    obtain ⟨hbusy, hroom, hless⟩ := (State.inReady_iff s).mp hready
    have hlast := s.latLen.isLt
    have hwide : s.inAccepted.toNat + 1 < 2 ^ 33 := by omega
    have hnext : (s.inAccepted + 1).toNat = s.inAccepted.toNat + 1 := BitVec.toNat_add_of_lt hwide
    obtain ⟨hcfg, hreg, ⟨-, hout, -, hcnt, hfifo, -⟩, hseq, hends⟩ := h
    have hfifo := hfifo hbusy
    refine ⟨hcfg, hreg, ⟨?_, hout, ?_, ?_, fun _ => ?_, by simp [State.acceptIn, hbusy]⟩, hseq, hends⟩ <;>
      simp only [State.acceptIn, hnext, List.length_append, List.length_singleton] <;> omega
  | pop x rest hout =>
    obtain ⟨hcfg, hreg, ⟨hin, hdepth, hports⟩, hseq, hends⟩ := h
    rw [hout, List.length_cons] at hdepth
    exact ⟨hcfg, hreg, ⟨hin, Nat.le_of_succ_le hdepth, hports⟩, hseq, hends⟩
  | reset hi => exact State.resetOf_inv h.1

theorem State.Inv.stepCase {s t : State} (h : s.Inv) (hstep : StepCase s t) : t.Inv := by
  cases hstep with
  | idle hbusy => exact h
  | boundary hbusy hbound => exact h.boundaryStep hbusy hbound
  | stage t hbusy hbound hexec hstep => exact h.stageStep hbusy hbound hstep
  | host i t hstep => exact h.hostStep hstep

/-- The turn taken off the schedule is none of the invariant's business. -/
theorem State.Inv.setSched {s : State} (h : s.Inv) (l : List Turn) : (s.setSched l).Inv := h

/-- Settles O51: case by case on what a step can do. -/
theorem everyStepKeepsTheInvariant : Obligations.EveryStepKeepsTheInvariant := by
  intro s t h hstep
  obtain ⟨l, hcase⟩ := stepCase_of_step hstep
  exact (h.setSched l).stepCase hcase

end Sys2Proof.Machine
end

section
/-! PROOF. Rules of every step and every instruction, read off what a step can do: the next state, the errored latch, the
counters, the ends of a command, CMD_ERR (10_state.md sections 4 and 5; 44_pipeline.md section 1; 60_exceptions.md). -/

namespace Sys2Proof.Machine

/-! ### The next state -/

theorem StageStep.cfg_eq {i : Instr} {s t : State} (h : StageStep i s t) : t.cfg = s.cfg := by cases h <;> rfl

theorem WriteStep.cfg_eq {i : Instr} {s t : State} (h : WriteStep i s t) : t.cfg = s.cfg := by cases h <;> rfl

theorem HostStep.cfg_eq {i : Instr} {s t : State} (h : HostStep i s t) : t.cfg = s.cfg := by
  cases h with
  | write t r hw => exact hw.cfg_eq
  | push | pop | reset => rfl

theorem boundaryStep_cfg (s : State) : s.boundaryStep.cfg = s.cfg := by
  obtain ⟨-, h⟩ | ⟨-, -, h⟩ | ⟨-, -, h⟩ := s.boundaryStep_cases <;> rw [h] <;> rfl

theorem StepCase.cfg_eq {s t : State} (h : StepCase s t) : t.cfg = s.cfg := by
  cases h with
  | idle => rfl
  | boundary => exact boundaryStep_cfg s
  | stage t hbusy hbound hexec hstep => exact hstep.cfg_eq
  | host i t hstep => exact hstep.cfg_eq

/-- Settles O53: every case of a step has a next state, and no case touches the parameters. -/
theorem everyStepAnswersANextState : Obligations.EveryStepAnswersANextState := by
  intro s
  obtain ⟨l, t, ht, hcase⟩ := step_stepCase s
  exact ⟨t, ht, hcase.cfg_eq⟩

/-- Settles O50: the reset state is idle with every count 0, BLOCK_SIZE at its largest legal value, and no code. -/
theorem resetMeetsTheInvariant : Obligations.ResetMeetsTheInvariant :=
  fun _ hc => ⟨State.resetOf_inv hc, nofun, Nat.zero_le _, .nil, nofun, .nil⟩

/-! ### Error entry -/

/-- Settles O24: an instruction that sets the latch is error entry by a row of the error table. -/
theorem onlyTheTabledStagesRaise : Obligations.OnlyTheTabledStagesRaise := by
  intro i s t h hno hyes
  obtain ⟨t', ht', hstep⟩ := exec_errStep i s
  obtain rfl : t' = t := Host.Outcome.next.inj (ht'.symm.trans h)
  obtain ⟨-, hsame⟩ | ⟨u, k, S, hrow, hblock, rfl⟩ | ⟨-, -, hlatch⟩ := hstep
  · exact absurd (hsame.symm.trans hyes) (by simp [hno])
  · exact ⟨k, S, hrow, rfl, hblock, rfl, rfl⟩
  · exact absurd (hlatch hyes) (by simp [hno])

theorem WriteStep.errored_le {i : Instr} {s t : State} (h : WriteStep i s t) (ht : t.errored = true) : s.errored = true := by
  cases h with
  | start => cases ht
  | nothing | refuse | abort | ctrl | blockSize | inLen | w1c => exact ht

theorem HostStep.errored_le {i : Instr} {s t : State} (h : HostStep i s t) (ht : t.errored = true) : s.errored = true := by
  cases h with
  | write t r hw => exact hw.errored_le ht
  | push | pop => exact ht
  | reset => cases ht

/-- A step that sets the latch is error entry of the running stage. -/
theorem StepCase.raise_of_errored {s t : State} (h : StepCase s t) (hno : s.errored = false) (hyes : t.errored = true) :
    s.busy = true ∧ s.boundary = false ∧
      ∃ k S b, (s.stage.instr, k, S) ∈ raiseTable ∧ t = (s.raise k S).withBuffers b := by
  have same (hs : s.errored = true) : False := by simp [hno] at hs
  cases h with
  | idle => exact (same hyes).elim
  | boundary =>
    obtain ⟨-, h⟩ | ⟨-, -, h⟩ | ⟨-, -, h⟩ := s.boundaryStep_cases <;> rw [h] at hyes <;> exact (same hyes).elim
  | stage t hbusy hbound hexec hstep =>
    cases hstep with
    | raise k S b hb hrow => exact ⟨hbusy, hbound, k, S, b, hrow, rfl⟩
    | keep | pop | move | push | commit | endDrain => exact (same hyes).elim
  | host i t hstep => exact (same (hstep.errored_le hyes)).elim

/-- While a stage runs that pushes nothing, all output is committed (60_exceptions.md R173). -/
theorem State.Inv.outCommit_eq {s : State} (h : s.Inv) (hbusy : s.busy = true) (hpush : s.stage.pushes = false) :
    s.outCommit = s.outCount := by
  obtain ⟨-, -, -, -, -, -, hcommit⟩ := h
  exact hcommit hbusy (.inl hpush)

theorem pushes_eq_false_of_raise {S S' : Stage} {k : ErrKind} (hrow : (S.instr, k, S') ∈ raiseTable) :
    S.pushes = false := by
  obtain ⟨hframed, hjoin⟩ := raiseTable_rows _ hrow
  by_contra hne
  exact ((Stage.pushes_iff _).mp (by simpa using hne)).elim hframed hjoin

/-- Settles O25: error entry changes no FIFO and no count, and the stages that raise push nothing. -/
theorem errorEntryIsPreciseAtBlocks : Obligations.ErrorEntryIsPreciseAtBlocks := by
  intro s t hinv h hno hyes
  obtain ⟨l, hcase⟩ := stepCase_of_step h
  obtain ⟨hbusy, -, k, S, b, hrow, rfl⟩ := hcase.raise_of_errored hno hyes
  exact ⟨rfl, hinv.outCommit_eq hbusy (pushes_eq_false_of_raise hrow), rfl, rfl, rfl, hbusy, rfl⟩

/-! ### The counters -/

/-- A step within a command: the latches stay, and the counters go up by at most one (10_state.md R39 to R42, R49). -/
def KeepsCommand (s t : State) : Prop :=
  t.op = s.op ∧ t.mode = s.mode ∧ t.latBs = s.latBs ∧ t.latLen = s.latLen ∧
    (t.inCount.toNat = s.inCount.toNat ∨ t.inCount.toNat = s.inCount.toNat + 1) ∧
    (t.outCount = s.outCount ∨ t.outCount = s.outCount + 1) ∧
    (t.blockCount = s.blockCount ∨ t.blockCount = s.blockCount + 1) ∧
    (t.outCommit = s.outCommit ∨ t.outCommit = t.outCount)

theorem KeepsCommand.refl (s : State) : KeepsCommand s s :=
  ⟨rfl, rfl, rfl, rfl, .inl rfl, .inl rfl, .inl rfl, .inl rfl⟩

theorem StageStep.keepsCommand {s t : State} (hinv : s.Inv) (hbusy : s.busy = true) {i : Instr} (h : StageStep i s t) :
    KeepsCommand s t := by
  cases h with
  | keep | move | raise | endDrain => exact .refl s
  | pop x rest b hb hi hin =>
    exact ⟨rfl, rfl, rfl, rfl, .inr (hinv.inCount_add_one hbusy hin).1, .inl rfl, .inl rfl, .inl rfl⟩
  | push => exact ⟨rfl, rfl, rfl, rfl, .inl rfl, .inr rfl, .inl rfl, .inl rfl⟩
  | commit => exact ⟨rfl, rfl, rfl, rfl, .inl rfl, .inl rfl, .inr rfl, .inr rfl⟩

theorem HostStep.keepsCommand {s t : State} {i : Instr} (h : HostStep i s t) (hs : s.busy = true) (ht : t.busy = true) :
    KeepsCommand s t := by
  cases h with
  | write t r hw =>
    cases hw with
    | start o hbusy => simp [hs] at hbusy
    | abort => cases ht
    | nothing | refuse | ctrl | blockSize | inLen | w1c => exact .refl s
  | push | pop => exact .refl s
  | reset => cases ht

theorem boundaryStep_keepsCommand (s : State) : KeepsCommand s s.boundaryStep := by
  obtain ⟨-, h⟩ | ⟨-, -, h⟩ | ⟨-, -, h⟩ := s.boundaryStep_cases <;> rw [h] <;> exact .refl s

theorem StepCase.keepsCommand {s t : State} (hinv : s.Inv) (h : StepCase s t) (hs : s.busy = true) (ht : t.busy = true) :
    KeepsCommand s t := by
  cases h with
  | idle => exact .refl s
  | boundary => exact boundaryStep_keepsCommand s
  | stage t hbusy hbound hexec hstep => exact hstep.keepsCommand hinv hbusy
  | host i t hstep => exact hstep.keepsCommand hs ht

/-- Settles O59: only a pop, a push and the end of a block touch a counter, and each by one. -/
theorem countersGrowWithinACommand : Obligations.CountersGrowWithinACommand := by
  intro s t hinv h hs ht
  obtain ⟨l, hcase⟩ := stepCase_of_step h
  have hrule := hcase.keepsCommand (hinv.setSched l) hs ht
  exact hrule

/-! ### The end of a command -/

/-- The ways a command ends: with DONE, after an error, by ABORT, by reset (44_pipeline.md R148; 45_commands.md R159). -/
def CommandEnd (s t : State) : Prop :=
  (t.done = true ∧ t.err = false ∧ t.errored = false ∧ t.inCount = t.latLen ∧ t.outCommit = t.outCount ∧
    t.outFifo = s.outFifo) ∨
  (t.done = false ∧ t.errored = true ∧ t.err = s.err ∧ t.inCount = t.latLen ∧ t.outCommit = t.outCount ∧
    t.outFifo = s.outFifo) ∨
  (t.aborted = true ∧ t.done = false ∧ t.err = s.err ∧ t.inFifo = [] ∧ t.outFifo = s.outFifo) ∨
  State.HasResetValues s.cfg t

theorem endDone_commandEnd {s : State} (hinv : s.Inv) (hbusy : s.busy = true) (hbound : s.boundary = true)
    (hrem : s.rem = 0) : CommandEnd s s.endDone := by
  obtain ⟨hno, herr, hcommit⟩ := hinv.boundary_facts hbusy hbound
  exact .inl ⟨rfl, herr, hno, (hinv.input_spent hbusy hrem).1, hcommit, rfl⟩

theorem endDrain_commandEnd {s : State} (hinv : s.Inv) (hbusy : s.busy = true) (hdrain : s.stage = .drain)
    (hrem : s.rem = 0) : CommandEnd s s.endDrain := by
  have hcommit := hinv.outCommit_eq hbusy (by rw [hdrain]; rfl)
  have hcount := (hinv.input_spent hbusy hrem).1
  have hdone := hinv.done_eq_false hbusy
  obtain ⟨-, -, -, ⟨-, -, -, herrored, -, -, -⟩, -⟩ := hinv
  exact .inr (.inl ⟨hdone, (herrored hbusy).mpr hdrain, rfl, hcount, hcommit, rfl⟩)

theorem HostStep.commandEnd {s t : State} (hinv : s.Inv) {i : Instr} (h : HostStep i s t) (hs : s.busy = true)
    (ht : t.busy = false) : CommandEnd s t := by
  have same (h : s.busy = false) : False := by simp [hs] at h
  cases h with
  | write t r hw =>
    cases hw with
    | abort => exact .inr (.inr (.inl ⟨rfl, hinv.done_eq_false hs, rfl, rfl, rfl⟩))
    | start o hbusy => cases ht
    | nothing | refuse | ctrl | blockSize | inLen | w1c => exact (same ht).elim
  | push | pop => exact (same ht).elim
  | reset => exact .inr (.inr (.inr ((State.resetOf_hasResetValues s.cfg).withSched s.sched)))

theorem boundaryStep_commandEnd {s : State} (hinv : s.Inv) (hbusy : s.busy = true) (hbound : s.boundary = true)
    (ht : s.boundaryStep.busy = false) : CommandEnd s s.boundaryStep := by
  obtain ⟨hrem, h⟩ | ⟨-, -, h⟩ | ⟨-, -, h⟩ := s.boundaryStep_cases <;> rw [h] at ht ⊢
  · exact endDone_commandEnd hinv hbusy hbound hrem
  · simp [State.enterSplit, hbusy] at ht
  · simp [State.enterUnframe, hbusy] at ht

theorem StageStep.commandEnd {s t : State} (hinv : s.Inv) (hbusy : s.busy = true) (h : StageStep s.stage.instr s t)
    (ht : t.busy = false) : CommandEnd s t := by
  have same (h : s.busy = false) : False := by simp [hbusy] at h
  cases h with
  | endDrain hi hrem =>
    exact endDrain_commandEnd hinv hbusy (Stage.instr_injective (hi.trans (rfl : _ = Stage.drain.instr))) hrem
  | keep | pop | move | raise | push | commit => exact (same ht).elim

theorem StepCase.commandEnd {s t : State} (hinv : s.Inv) (h : StepCase s t) (hs : s.busy = true) (ht : t.busy = false) :
    CommandEnd s t := by
  cases h with
  | idle => simp [hs] at ht
  | boundary hbusy hbound => exact boundaryStep_commandEnd hinv hbusy hbound ht
  | stage t hbusy hbound hexec hstep => exact hstep.commandEnd hinv hbusy ht
  | host i t hstep => exact hstep.commandEnd hinv hs ht

/-- Settles O60: BUSY falls at the boundary step with the input spent, at the end of a drain, by ABORT and by reset only. -/
theorem aCommandEndsInOneWay : Obligations.ACommandEndsInOneWay := by
  intro s t hinv h hs ht
  obtain ⟨l, hcase⟩ := stepCase_of_step h
  have hend := hcase.commandEnd (hinv.setSched l) hs ht
  exact hend

/-! ### CMD_ERR -/

theorem StageStep.cmdErr_eq {i : Instr} {s t : State} (h : StageStep i s t) : t.cmdErr = s.cmdErr := by cases h <;> rfl

/-- What an instruction may do to CMD_ERR (10_state.md R45; 60_exceptions.md R169). -/
def CmdErrRule (i : Instr) (s t : State) : Prop :=
  (s.cmdErr = true → t.cmdErr = false → i = .reset ∨ ∃ v, i = .regWrite 0x14 v ∧ v.getLsbD 3 = true) ∧
  (s.cmdErr = false → t.cmdErr = true →
    (∃ v, i = .reservedCmd v) ∨ (s.busy = true ∧ (i = .compress ∨ i = .decompress)) ∨
      ∃ v, i = .regWrite 0x10 v ∧ (4 ≤ v.toNat ∨ (s.busy = true ∧ (v.toNat = 1 ∨ v.toNat = 2))))

theorem CmdErrRule.of_eq {s t : State} (h : t.cmdErr = s.cmdErr) (i : Instr) : CmdErrRule i s t := by
  rw [CmdErrRule, h]
  exact ⟨fun h1 h0 => by simp [h1] at h0, fun h0 h1 => by simp [h0] at h1⟩

theorem WriteStep.cmdErrRule {i : Instr} {s t : State} (h : WriteStep i s t) : CmdErrRule i s t := by
  cases h with
  | refuse hi => exact ⟨nofun, fun _ _ => hi⟩
  | w1c v hi =>
    refine ⟨fun h1 h0 => .inr ⟨v, hi, ?_⟩, fun h0 h1 => ?_⟩
    · simpa [State.w1c, h1] using h0
    · simp [State.w1c, h0] at h1
  | nothing | start | abort | ctrl | blockSize | inLen => exact .of_eq rfl i

theorem HostStep.cmdErrRule {i : Instr} {s t : State} (h : HostStep i s t) : CmdErrRule i s t := by
  cases h with
  | write t r hw => exact hw.cmdErrRule
  | push | pop => exact .of_eq rfl i
  | reset hi => exact ⟨fun _ _ => .inl hi, nofun⟩

/-- Settles O56: only a refused command, a W1C and reset touch CMD_ERR. -/
theorem cmdErrHasItsSettersAndClearers : Obligations.CmdErrHasItsSettersAndClearers := by
  intro i s t h
  obtain ⟨t', ht', hcase⟩ := exec_cases i s
  obtain rfl : t' = t := Host.Outcome.next.inj (ht'.symm.trans h)
  exact hcase.elim (fun hstep => CmdErrRule.of_eq hstep.cmdErr_eq i) HostStep.cmdErrRule

end Sys2Proof.Machine
end

section
/-! PROOF. The shape and size of a pair stream (42_rle.md R114, R117; 30_encoding.md R86). RLE_ENC is followed pair by pair: the
pairs of a run have one value, the runs beside each other have two, and every pair but a run's last has the count 255. -/

namespace Sys2Proof.Machine

/-! ### Pair streams -/

@[simp] theorem pairStream_nil : pairStream [] = [] := rfl

@[simp] theorem pairStream_cons (p : Byte × Byte) (ps : List (Byte × Byte)) :
    pairStream (p :: ps) = p.1 :: p.2 :: pairStream ps := rfl

theorem pairStream_append (ps qs : List (Byte × Byte)) : pairStream (ps ++ qs) = pairStream ps ++ pairStream qs :=
  List.flatMap_append

theorem length_pairStream (ps : List (Byte × Byte)) : (pairStream ps).length = 2 * ps.length := by
  induction ps with
  | nil => rfl
  | cons p ps ih => rw [pairStream_cons, List.length_cons, List.length_cons, ih, List.length_cons]; omega

theorem getElem?_pairStream (ps : List (Byte × Byte)) (k : Nat) :
    (pairStream ps)[2 * k]? = ps[k]?.map Prod.fst ∧ (pairStream ps)[2 * k + 1]? = ps[k]?.map Prod.snd := by
  induction ps generalizing k with
  | nil => simp
  | cons p ps ih =>
    cases k with
    | zero => simp
    | succ k =>
      obtain ⟨hfst, hsnd⟩ := ih k
      simpa [Nat.mul_succ] using ⟨hfst, hsnd⟩

/-! ### The pairs RLE_ENC writes -/

/-- The pairs of a run (42_rle.md R114). -/
def pairsOfRun (p : Nat × Byte) : List (Byte × Byte) :=
  List.replicate (p.1 / 255) (255, p.2) ++ if p.1 % 255 = 0 then [] else [(BitVec.ofNat 8 (p.1 % 255), p.2)]

theorem runPairs_eq_pairStream (r : Nat) (v : Byte) : runPairs r v = pairStream (pairsOfRun (r, v)) := by
  have hlong (n : Nat) : (List.replicate n [(255 : Byte), v]).flatten = pairStream (List.replicate n (255, v)) := by
    induction n with
    | zero => rfl
    | succ n ih => rw [List.replicate_succ, List.replicate_succ, List.flatten_cons, ih]; rfl
  rw [runPairs, pairsOfRun, pairStream_append, hlong]
  split <;> rfl

theorem rleEnc_eq_pairStream (X : List Byte) : rleEnc X = pairStream ((runs X).flatMap pairsOfRun) := by
  simp only [rleEnc, runPairs_eq_pairStream, pairStream, List.flatMap_assoc]

theorem snd_of_mem_pairsOfRun {p : Nat × Byte} {q : Byte × Byte} (hq : q ∈ pairsOfRun p) : q.2 = p.2 := by
  rw [pairsOfRun, List.mem_append] at hq
  obtain hq | hq := hq
  · rw [List.eq_of_mem_replicate hq]
  · split at hq
    · cases hq
    · rw [List.mem_singleton.mp hq]

theorem pairsOfRun_ne_nil {p : Nat × Byte} (hp : 1 ≤ p.1) : pairsOfRun p ≠ [] := by
  rw [pairsOfRun]
  by_cases h : p.1 % 255 = 0
  · have : p.1 / 255 ≠ 0 := by omega
    simp [this]
  · simp [h]

/-- A pair that stands before one of its own value is a full one (42_rle.md R114). -/
abbrev SplitAt255 (p q : Byte × Byte) : Prop := p.2 = q.2 → p.1 = 255

theorem isChain_pairsOfRun (p : Nat × Byte) : (pairsOfRun p).IsChain SplitAt255 := by
  have hfull : (List.replicate (p.1 / 255) ((255 : Byte), p.2)).IsChain SplitAt255 :=
    List.isChain_replicate_of_rel _ fun _ => rfl
  rw [pairsOfRun]
  refine List.isChain_append.mpr ⟨hfull, ?_, fun x hx y _ _ => ?_⟩
  · split <;> simp
  · rw [List.eq_of_mem_replicate (List.mem_of_getLast? hx)]

/-! ### The maximal runs -/

/-- A run has a byte or more, and the runs beside each other have different values (42_rle.md R114). -/
theorem runs_maximal (X : List Byte) : (∀ p ∈ runs X, 1 ≤ p.1) ∧ (runs X).IsChain fun p q => p.2 ≠ q.2 := by
  induction X with
  | nil => exact ⟨nofun, .nil⟩
  | cons x X ih =>
    rw [runs]
    split
    case h_1 => exact ⟨by simp, .singleton _⟩
    case h_2 r v rest h =>
      rw [h] at ih
      obtain ⟨hpos, hchain⟩ := ih
      obtain ⟨-, hpos'⟩ := List.forall_mem_cons.mp hpos
      split
      case isTrue =>
        exact ⟨List.forall_mem_cons.mpr ⟨Nat.le_add_left 1 r, hpos'⟩,
          hchain.imp_head (x := (r, v)) (y := (r + 1, v)) fun h => h⟩
      case isFalse hv =>
        exact ⟨List.forall_mem_cons.mpr ⟨le_rfl, hpos⟩, List.isChain_cons_cons.mpr ⟨Ne.symm hv, hchain⟩⟩

theorem isChain_pairs (X : List Byte) : ((runs X).flatMap pairsOfRun).IsChain SplitAt255 := by
  obtain ⟨hpos, hchain⟩ := runs_maximal X
  have hne : [] ∉ (runs X).map pairsOfRun := fun h => by
    obtain ⟨p, hp, hnil⟩ := List.mem_map.mp h
    exact pairsOfRun_ne_nil (hpos p hp) hnil
  rw [List.flatMap_def, List.isChain_flatten hne]
  refine ⟨fun l hl => ?_, (List.isChain_map _).mpr (hchain.imp fun p q hpq x hx y hy hxy => ?_)⟩
  · obtain ⟨p, -, rfl⟩ := List.mem_map.mp hl
    exact isChain_pairsOfRun p
  · have hxp := snd_of_mem_pairsOfRun (List.mem_of_getLast? hx)
    have hyq := snd_of_mem_pairsOfRun (List.mem_of_mem_head? hy)
    exact absurd (hxp.symm.trans (hxy.trans hyq)) hpq

/-! ### The bounds -/

theorem RleCodes.length_le {R X : List Byte} (h : RleCodes R X) : R.length ≤ 2 * X.length := by
  induction h with
  | nil => exact le_rfl
  | @pair c v R X hc _ ih =>
    have hpos : c.toNat ≠ 0 := fun h0 => hc (BitVec.eq_of_toNat_eq h0)
    simp only [List.length_cons, List.length_append, List.length_replicate]
    omega

theorem RleCodes.two_le_length {R X : List Byte} (h : RleCodes R X) (hX : X ≠ []) : 2 ≤ R.length := by
  cases h with
  | nil => exact absurd rfl hX
  | pair v hc h => simp

theorem RleCodes.count_ne_zero {R X : List Byte} (h : RleCodes R X) {k : Nat} {c : Byte} (hc : R[2 * k]? = some c) :
    c ≠ 0 := by
  induction h generalizing k with
  | nil => simp at hc
  | @pair d v R X hd _ ih =>
    cases k with
    | zero =>
      obtain rfl : d = c := by simpa using hc
      exact hd
    | succ k => exact ih (by simpa [Nat.mul_succ] using hc)

/-- Settles O37: the sizes and counts are those of every code of the input; the values beside each other are those of the
maximal runs. -/
theorem rleStreamIsBounded : Obligations.RleStreamIsBounded := by
  intro X
  have hcodes := rleCodes_rleEnc X
  refine ⟨hcodes.length_mod_two, hcodes.length_le, hcodes.two_le_length, fun k c => hcodes.count_ne_zero,
    fun k c v c' hc hv hc' hv' => ?_⟩
  rw [rleEnc_eq_pairStream] at hc hv hc' hv'
  rw [(getElem?_pairStream _ k).1] at hc
  rw [(getElem?_pairStream _ k).2] at hv
  rw [show 2 * k + 2 = 2 * (k + 1) by omega, (getElem?_pairStream _ (k + 1)).1] at hc'
  rw [show 2 * k + 3 = 2 * (k + 1) + 1 by omega, (getElem?_pairStream _ (k + 1)).2] at hv'
  obtain ⟨p, hp, rfl⟩ := Option.map_eq_some_iff.mp hc
  obtain ⟨q, hq, rfl⟩ := Option.map_eq_some_iff.mp hc'
  obtain ⟨hk, rfl⟩ := List.getElem?_eq_some_iff.mp hp
  obtain ⟨hk', rfl⟩ := List.getElem?_eq_some_iff.mp hq
  have hchain := List.isChain_iff_getElem.mp (isChain_pairs X) k hk'
  simp only [hp, hq, Option.map_some, Option.some.injEq] at hv hv'
  exact hchain (hv.trans hv'.symm)

end Sys2Proof.Machine
end

section
/-! PROOF. The sizes of the working buffers (10_state.md R50). Each transform bounds what it gives by what it is given, or by
its capacity; a stage that moves on leaves the next stage a buffer within bounds. -/

namespace Sys2Proof.Machine

/-! ### The sizes the transforms give -/

theorem length_mtfEnc (X : List Byte) : (mtfEnc X).1.length = X.length := by
  have hfrom (A : List Byte) : (mtfEncFrom A X).1.length = X.length := by
    induction X generalizing A with
    | nil => rfl
    | cons x X ih => simp [mtfEncFrom, ih]
  exact hfrom _

theorem length_mtfDec (Y : List Byte) : (mtfDec Y).1.length = Y.length := by
  have hfrom (A : List Byte) : (mtfDecFrom A Y).1.length = Y.length := by
    induction Y generalizing A with
    | nil => rfl
    | cons i Y ih => simp [mtfDecFrom, ih]
  exact hfrom _

theorem length_le_of_hufDecFrom {c : Codes} {cap n : Nat} {acc bits : Bits} {R : List Byte} (hn : n ≤ cap)
    (h : hufDecFrom c cap acc n bits = .ok R) : n + R.length ≤ cap := by
  fun_induction hufDecFrom c cap acc n bits generalizing R with
  | case1 => cases h; exact hn
  | case2 | case3 | case4 | case6 => cases h
  | case5 =>
    rename_i hfit out hout ih
    cases h
    have := ih (by omega) hout
    rw [List.length_cons]
    omega
  | case7 =>
    rename_i ih
    exact ih hn h

/-- HUF_DEC gives at most `cap` symbols (43_huffman.md R126). -/
theorem length_le_of_hufDec {c : Codes} {cap : Nat} {P R : List Byte} (h : hufDec c cap P = .ok R) : R.length ≤ cap := by
  cases P with
  | nil => cases h
  | cons pad packed =>
    simp only [hufDec] at h
    split at h
    · cases h
    split at h
    · cases h
    split at h
    case h_1 out hout =>
      split at h
      · cases h
      · cases h
        have := length_le_of_hufDecFrom (Nat.zero_le _) hout
        omega
    case h_2 => cases h

theorem length_le_of_rleDecFrom {cap n : Nat} {R M : List Byte} (hn : n ≤ cap) (h : rleDecFrom cap n R = .ok M) :
    n + M.length ≤ cap := by
  fun_induction rleDecFrom cap n R generalizing M with
  | case1 | case2 | case4 => cases h
  | case3 =>
    rename_i out hout ih
    cases h
    have := ih (by omega) hout
    rw [List.length_append, List.length_replicate]
    omega
  | case5 => cases h; exact hn

/-- RLE_DEC gives at most `cap` bytes (42_rle.md R115). -/
theorem length_le_of_rleDec {cap : Nat} {R M : List Byte} (h : rleDec cap R = .ok M) : M.length ≤ cap := by
  rw [rleDec] at h
  split at h
  · cases h
  · have := length_le_of_rleDecFrom (Nat.zero_le _) h
    omega

theorem length_walkEmitMove (L : List Byte) (n p : Nat) : (walkEmitMove L n p).length = n := by
  induction n generalizing p with
  | zero => rfl
  | succ n ih => rw [walkEmitMove, List.length_cons, ih]

theorem length_of_bwtInvExplicit {L B : List Byte} {p : Nat} (h : bwtInvExplicit L p = .ok B) : B.length = L.length := by
  rw [bwtInvExplicit] at h
  split_ifs at h
  cases h
  rw [List.length_reverse, length_walkEmitMove]

theorem length_of_bwtInvSentinel {L B : List Byte} (h : bwtInvSentinel L = .ok B) : B.length + 1 = L.length := by
  simp only [bwtInvSentinel] at h
  split_ifs at h
  cases h
  rw [List.length_reverse, walkMoveEmit_eq, length_walkEmitMove]
  omega

/-! ### The stages -/

theorem fits_of_drain {s : State} (h : s.stage = .drain) : s.stageFits = true := by simp [State.stageFits, h]

theorem fits_raise (s : State) (k : ErrKind) (S : Stage) : (s.raise k S).stageFits = true := fits_of_drain rfl

theorem capL_explicitIndex (c : Config) : capL c .explicitIndex = c.maxBlockSize := rfl

theorem capL_sentinel (c : Config) : capL c .sentinel = c.maxBlockSize + 1 := rfl

section Fits

variable {s : State}

theorem stageFits_split (hs : s.stage = .split) :
    s.stageFits = true ↔ s.blk.length ≤ s.latBs.toNat ∧ 0 < s.blk.length + s.rem := by
  simp [State.stageFits, hs]

theorem stageFits_bwt (hs : s.stage = .bwt) :
    s.stageFits = true ↔ 1 ≤ s.blk.length ∧ s.blk.length ≤ s.latBs.toNat := by
  simp [State.stageFits, hs]

theorem stageFits_mtf (hs : s.stage = .mtf) :
    s.stageFits = true ↔ 1 ≤ s.colL.length ∧ s.colL.length ≤ capL s.cfg s.mode := by
  simp [State.stageFits, hs]

theorem stageFits_rle (hs : s.stage = .rle) :
    s.stageFits = true ↔ 1 ≤ s.rankM.length ∧ s.rankM.length ≤ capL s.cfg s.mode := by
  simp [State.stageFits, hs]

theorem stageFits_entropy (hs : s.stage = .entropy) :
    s.stageFits = true ↔ 2 ≤ s.pairR.length ∧ s.pairR.length ≤ capR s.cfg s.mode := by
  simp [State.stageFits, hs]

theorem stageFits_unframe (hs : s.stage = .unframe) : s.stageFits = s.frameFits := by simp [State.stageFits, hs]

theorem stageFits_entropyInv (hs : s.stage = .entropyInv) :
    s.stageFits = true ↔ s.tab.length ≤ maxTableBytes ∧ 1 ≤ s.pay.length := by
  simp [State.stageFits, hs]

theorem stageFits_rleInv (hs : s.stage = .rleInv) : s.stageFits = true ↔ s.pairR.length ≤ capR s.cfg s.mode := by
  simp [State.stageFits, hs]

theorem stageFits_mtfInv (hs : s.stage = .mtfInv) : s.stageFits = true ↔ s.rankM.length ≤ capL s.cfg s.mode := by
  simp [State.stageFits, hs]

theorem stageFits_bwtInv (hs : s.stage = .bwtInv) : s.stageFits = true ↔ s.colL.length ≤ capL s.cfg s.mode := by
  simp [State.stageFits, hs]

theorem stageFits_join (hs : s.stage = .join) : s.stageFits = true ↔ s.pend.length ≤ s.cfg.maxBlockSize := by
  simp [State.stageFits, hs]

end Fits

/-- The latched block size of a state of the invariant. -/
theorem State.Inv.latBs_le {s : State} (h : s.Inv) : 1 ≤ s.latBs.toNat ∧ s.latBs.toNat ≤ s.cfg.maxBlockSize := by
  obtain ⟨-, -, -, ⟨-, -, -, -, -, hlat, -⟩, -⟩ := h
  exact hlat

theorem split_fits {s t : State} (hinv : s.Inv) (hs : s.stage = .split) (hfit : s.stageFits = true)
    (h : exec .split s = .next t) : t.stageFits = true := by
  have hlat := hinv.latBs_le
  have hblk : s.blk.length ≤ s.latBs.toNat ∧ 0 < s.blk.length + s.rem := (stageFits_split hs).mp hfit
  obtain ⟨b, rest, hless, -, -, hex⟩ | ⟨-, -, -, hex⟩ | ⟨hfull, hex⟩ := execSplit_cases s <;>
    obtain rfl := Host.Outcome.next.inj (hex.symm.trans h)
  · have hlen : (s.blk ++ [b]).length = s.blk.length + 1 := by simp
    have hmax : (s.blk ++ [b]).length ≤ s.latBs.toNat := by omega
    exact (stageFits_split (by exact hs)).mpr ⟨hmax, by rw [hlen]; omega⟩
  · exact hfit
  · exact (stageFits_bwt rfl).mpr (by simp only [State.setStage_blk, State.setStage_latBs]; omega)

theorem bwt_fits {s t : State} (hinv : s.Inv) (hs : s.stage = .bwt) (hfit : s.stageFits = true)
    (h : exec .bwt s = .next t) : t.stageFits = true := by
  have hlat := hinv.latBs_le
  have hblk : 1 ≤ s.blk.length ∧ s.blk.length ≤ s.latBs.toNat := (stageFits_bwt hs).mp hfit
  cases hmode : s.mode with
  | explicitIndex =>
    rw [exec_bwt_explicitIndex hmode] at h
    obtain rfl := Host.Outcome.next.inj h
    have hlen : (bwtFwdExplicit s.blk).1.length = s.blk.length := length_lastColumn s.blk
    refine (stageFits_mtf rfl).mpr ?_
    simp only [State.setStage_colL, State.setStage_cfg, State.setStage_mode, hlen, hmode, capL_explicitIndex]
    omega
  | sentinel =>
    rw [exec_bwt_sentinel hmode] at h
    cases hfwd : bwtFwdSentinel s.blk with
    | ok L =>
      rw [applyBwtFwdSentinel_of_ok hfwd] at h
      obtain rfl := Host.Outcome.next.inj h
      obtain ⟨-, rfl⟩ := bwtFwdSentinel_ok hfwd
      refine (stageFits_mtf rfl).mpr ?_
      simp only [State.setStage_colL, State.setStage_cfg, State.setStage_mode, hmode, capL_sentinel, length_lastColumn,
        List.length_append, List.length_singleton]
      omega
    | error k =>
      rw [applyBwtFwdSentinel_of_error hfwd] at h
      obtain rfl := Host.Outcome.next.inj h
      exact fits_raise _ _ _

theorem mtf_fits {s t : State} (hs : s.stage = .mtf) (hfit : s.stageFits = true) (h : exec .mtf s = .next t) :
    t.stageFits = true := by
  obtain rfl := Host.Outcome.next.inj h
  refine (stageFits_rle rfl).mpr ?_
  simpa [length_mtfEnc] using (stageFits_mtf hs).mp hfit

theorem rle_fits {s t : State} (hs : s.stage = .rle) (hfit : s.stageFits = true) (h : exec .rle s = .next t) :
    t.stageFits = true := by
  have hM : 1 ≤ s.rankM.length ∧ s.rankM.length ≤ capL s.cfg s.mode := (stageFits_rle hs).mp hfit
  have hcodes := rleCodes_rleEnc s.rankM
  have hmin := hcodes.two_le_length (List.length_pos_iff.mp (by omega))
  have hmax := hcodes.length_le
  obtain rfl := Host.Outcome.next.inj h
  refine (stageFits_entropy rfl).mpr ⟨hmin, ?_⟩
  simp only [State.setStage_pairR, State.setStage_cfg, State.setStage_mode, capR]
  omega

theorem entropyInv_fits {s t : State} (h : exec .entropyInv s = .next t) : t.stageFits = true := by
  cases htab : tabParse s.tab with
  | error k =>
    rw [exec_entropyInv_of_no_table htab] at h
    obtain rfl := Host.Outcome.next.inj h
    exact fits_raise _ _ _
  | ok c =>
    rw [exec_entropyInv_of_table htab] at h
    cases hdec : hufDec c (capR s.cfg s.mode) s.pay with
    | ok R =>
      rw [applyHufDec_of_ok hdec] at h
      obtain rfl := Host.Outcome.next.inj h
      exact (stageFits_rleInv rfl).mpr (length_le_of_hufDec hdec)
    | error k =>
      rw [applyHufDec_of_error hdec] at h
      obtain rfl := Host.Outcome.next.inj h
      exact fits_raise _ _ _

theorem rleInv_fits {s t : State} (h : exec .rleInv s = .next t) : t.stageFits = true := by
  rw [exec_rleInv] at h
  cases hdec : rleDec (capL s.cfg s.mode) s.pairR with
  | ok M =>
    rw [applyRleDec_of_ok hdec] at h
    obtain rfl := Host.Outcome.next.inj h
    exact (stageFits_mtfInv rfl).mpr (length_le_of_rleDec hdec)
  | error k =>
    rw [applyRleDec_of_error hdec] at h
    obtain rfl := Host.Outcome.next.inj h
    exact fits_raise _ _ _

theorem mtfInv_fits {s t : State} (hs : s.stage = .mtfInv) (hfit : s.stageFits = true) (h : exec .mtfInv s = .next t) :
    t.stageFits = true := by
  obtain rfl := Host.Outcome.next.inj h
  refine (stageFits_bwtInv rfl).mpr ?_
  simpa [length_mtfDec] using (stageFits_mtfInv hs).mp hfit

theorem bwtInv_fits {s t : State} (hs : s.stage = .bwtInv) (hfit : s.stageFits = true) (h : exec .bwtInv s = .next t) :
    t.stageFits = true := by
  have hL : s.colL.length ≤ capL s.cfg s.mode := (stageFits_bwtInv hs).mp hfit
  cases hmode : s.mode with
  | explicitIndex =>
    cases hinv : bwtInvExplicit s.colL s.pidx.toNat with
    | ok B =>
      rw [exec_bwtInv_of_ok (.inl ⟨hmode, applyBwtInvExplicit_of_ok hinv⟩)] at h
      obtain rfl := Host.Outcome.next.inj h
      have hlen := length_of_bwtInvExplicit hinv
      rw [hmode, capL_explicitIndex] at hL
      have hnext : B.length ≤ s.cfg.maxBlockSize := by omega
      exact (stageFits_join rfl).mpr hnext
    | error k =>
      rw [exec_bwtInv_of_error (.inl ⟨hmode, applyBwtInvExplicit_of_error hinv⟩)] at h
      obtain rfl := Host.Outcome.next.inj h
      exact fits_raise _ _ _
  | sentinel =>
    cases hinv : bwtInvSentinel s.colL with
    | ok B =>
      rw [exec_bwtInv_of_ok (.inr ⟨hmode, applyBwtInvSentinel_of_ok hinv⟩)] at h
      obtain rfl := Host.Outcome.next.inj h
      have hlen := length_of_bwtInvSentinel hinv
      rw [hmode, capL_sentinel] at hL
      have hnext : B.length ≤ s.cfg.maxBlockSize := by omega
      exact (stageFits_join rfl).mpr hnext
    | error k =>
      rw [exec_bwtInv_of_error (.inr ⟨hmode, applyBwtInvSentinel_of_error hinv⟩)] at h
      obtain rfl := Host.Outcome.next.inj h
      exact fits_raise _ _ _

/-- FRAMED and JOIN only shorten what they push. -/
theorem pushPending_fits {s : State} (hs : s.stage = .framed ∨ s.stage = .join) (hfit : s.stageFits = true) :
    s.pushPending.stageFits = true := by
  obtain ⟨-, h⟩ | ⟨b, rest, hpend, -, h⟩ | ⟨-, -, h⟩ := s.pushPending_cases <;> rw [h]
  · exact hfit
  · obtain hs | hs := hs
    · simp [State.stageFits, State.outPush, hs]
    · have hlen : s.pend.length ≤ s.cfg.maxBlockSize := (stageFits_join hs).mp hfit
      rw [hpend, List.length_cons] at hlen
      have hnext : rest.length ≤ s.cfg.maxBlockSize := by omega
      exact (stageFits_join (by exact hs)).mpr hnext
  · exact hfit

theorem drainStep_fits {s : State} (hs : s.stage = .drain) : s.drainStep.stageFits = true := by
  obtain ⟨-, h⟩ | ⟨b, rest, -, -, h⟩ | ⟨-, -, h⟩ := s.drainStep_cases <;> rw [h]
  · simp [State.stageFits, State.endDrain]
  · exact fits_of_drain hs
  · exact fits_of_drain hs

/-! ### UNFRAME -/

section Unframe

variable {s : State}

theorem checkFour_fits (hs : s.stage = .unframe) {f : FrameField}
    (hf : f = .idx ∨ f = .tabLen ∨ (f = .payLen ∧ s.tab.length ≤ maxTableBytes)) : (s.checkFour f).stageFits = true := by
  rw [State.checkFour]
  split
  · exact fits_raise _ _ _
  · obtain rfl | rfl | ⟨rfl, htab⟩ := hf
    · simp [State.stageFits, State.frameFits, hs]
    · simp [State.stageFits, State.frameFits, hs]
    · simp [State.stageFits, State.frameFits, hs, htab]

theorem checkTabLen_fits (hs : s.stage = .unframe) : s.checkTabLen.stageFits = true := by
  simp only [State.checkTabLen]
  split_ifs with hrem hmax
  · exact fits_raise _ _ _
  · exact fits_raise _ _ _
  · simpa [State.stageFits, State.frameFits, hs] using hmax

theorem checkPayLen_fits (hs : s.stage = .unframe) (htab : s.tab.length ≤ maxTableBytes) :
    s.checkPayLen.stageFits = true := by
  simp only [State.checkPayLen]
  split_ifs with hrem hzero
  · exact fits_raise _ _ _
  · exact fits_raise _ _ _
  · simpa [State.stageFits, State.frameFits, hs, htab] using Nat.one_le_iff_ne_zero.mpr hzero

theorem takeFieldByte_fits (hs : s.stage = .unframe) (hf : s.field = .idx ∨ s.field = .tabLen ∨ s.field = .payLen)
    (hneed : s.need ≠ 0) (hfit : s.frameFits = true) : s.takeFieldByte.stageFits = true := by
  obtain ⟨-, h⟩ | ⟨b, rest, -, h⟩ := s.takeFieldByte_cases <;> rw [h]
  · exact (stageFits_unframe hs).trans hfit
  · obtain hf | hf | hf := hf <;> simp [State.stageFits, State.frameFits, hs, hf] at hfit ⊢ <;> omega

theorem takeTabByte_fits (hs : s.stage = .unframe) (hf : s.field = .tab) (hneed : s.need ≠ 0) (hfit : s.frameFits = true) :
    s.takeTabByte.stageFits = true := by
  obtain ⟨-, h⟩ | ⟨b, rest, -, h⟩ := s.takeTabByte_cases <;> rw [h]
  · exact (stageFits_unframe hs).trans hfit
  · simp [State.stageFits, State.frameFits, hs, hf] at hfit ⊢
    omega

theorem takePayByte_fits (hs : s.stage = .unframe) (hf : s.field = .pay) (hfit : s.frameFits = true) :
    s.takePayByte.stageFits = true := by
  obtain ⟨-, h⟩ | ⟨b, rest, -, h⟩ := s.takePayByte_cases <;> rw [h]
  · exact (stageFits_unframe hs).trans hfit
  · simp [State.stageFits, State.frameFits, hs, hf] at hfit ⊢
    omega

theorem unframeStep_fits (hs : s.stage = .unframe) (hfit : s.stageFits = true) : s.unframeStep.stageFits = true := by
  rw [stageFits_unframe hs] at hfit
  rw [State.unframeStep]
  cases hf : s.field with
  | idxCheck => exact checkFour_fits hs (.inl rfl)
  | tabLenCheck => exact checkFour_fits hs (.inr (.inl rfl))
  | payLenCheck => exact checkFour_fits hs (.inr (.inr ⟨rfl, by simpa [State.frameFits, hf] using hfit⟩))
  | idx =>
    simp only
    split_ifs with hneed
    · simp [State.stageFits, State.frameFits, hs]
    · exact takeFieldByte_fits hs (.inl hf) hneed hfit
  | tabLen =>
    simp only
    split_ifs with hneed
    · exact checkTabLen_fits hs
    · exact takeFieldByte_fits hs (.inr (.inl hf)) hneed hfit
  | tab =>
    simp only
    split_ifs with hneed
    · have htab : s.tab.length ≤ maxTableBytes := by simpa [State.frameFits, hf, hneed] using hfit
      simpa [State.stageFits, State.frameFits, hs] using htab
    · exact takeTabByte_fits hs hf hneed hfit
  | payLen =>
    simp only
    split_ifs with hneed
    · exact checkPayLen_fits hs (by simp [State.frameFits, hf] at hfit; exact hfit.1)
    · exact takeFieldByte_fits hs (.inr (.inr hf)) hneed hfit
  | pay =>
    simp only
    split_ifs with hneed
    · exact (stageFits_entropyInv rfl).mpr (by simpa [State.frameFits, hf, hneed] using hfit)
    · exact takePayByte_fits hs hf hfit

end Unframe

/-! ### Every step -/

/-- A stage whose buffers fit leaves buffers that fit the stage it leads to. -/
theorem exec_instr_fits {s t : State} (hinv : s.Inv) (hfit : s.stageFits = true) (h : exec s.stage.instr s = .next t) :
    t.stageFits = true := by
  generalize hs : s.stage = S at h
  cases S with
  | idle => obtain rfl := Host.Outcome.next.inj h; exact hfit
  | split => exact split_fits hinv hs hfit h
  | bwt => exact bwt_fits hinv hs hfit h
  | mtf => exact mtf_fits hs hfit h
  | rle => exact rle_fits hs hfit h
  | entropy => obtain rfl := Host.Outcome.next.inj h; rfl
  | framed => obtain rfl := Host.Outcome.next.inj h; exact pushPending_fits (.inl hs) hfit
  | unframe => obtain rfl := Host.Outcome.next.inj h; exact unframeStep_fits hs hfit
  | entropyInv => exact entropyInv_fits h
  | rleInv => exact rleInv_fits h
  | mtfInv => exact mtfInv_fits hs hfit h
  | bwtInv => exact bwtInv_fits hs hfit h
  | join => obtain rfl := Host.Outcome.next.inj h; exact pushPending_fits (.inr hs) hfit
  | drain => obtain rfl := Host.Outcome.next.inj h; exact drainStep_fits hs

theorem boundaryStep_fits (s : State) : s.boundaryStep.stageFits = true := by
  obtain ⟨-, h⟩ | ⟨hrem, -, h⟩ | ⟨-, -, h⟩ := s.boundaryStep_cases <;> rw [h]
  · simp [State.stageFits, State.endDone]
  · have hpos : 0 < 0 + s.rem := by omega
    exact (stageFits_split rfl).mpr ⟨Nat.zero_le _, hpos⟩
  · cases hmode : s.mode <;> simp [State.stageFits, State.frameFits, State.enterUnframe, hmode]

theorem HostStep.buffersFit {s t : State} {i : Instr} (h : HostStep i s t) (hfit : s.BuffersFit) : t.BuffersFit := by
  cases h with
  | write t r hw =>
    cases hw with
    | start => exact fun _ hbound => by cases hbound
    | abort => exact fun hbusy => by cases hbusy
    | nothing | refuse | ctrl | blockSize | inLen | w1c => exact hfit
  | push | pop => exact hfit
  | reset => exact fun hbusy => by cases hbusy

theorem StepCase.buffersFit {s t : State} (hinv : s.Inv) (hfit : s.BuffersFit) (h : StepCase s t) : t.BuffersFit := by
  cases h with
  | idle => exact hfit
  | boundary => exact fun _ _ => boundaryStep_fits s
  | stage t hbusy hbound hexec hstep => exact fun _ _ => exec_instr_fits hinv (hfit hbusy hbound) hexec
  | host i t hstep => exact hstep.buffersFit hfit

/-! ### The code table -/

theorem BuffersFrom.legalCodes {s b : State} (h : BuffersFrom s b) (hs : LegalCodes s.codes) : LegalCodes b.codes :=
  h.codes.elim (fun heq => heq ▸ hs) id

theorem legalCodes_nil : LegalCodes [] := ⟨Nat.zero_le _, .nil, nofun, .nil⟩

theorem StageStep.legalCodes {s t : State} {i : Instr} (h : StageStep i s t) (hs : LegalCodes s.codes) :
    LegalCodes t.codes := by
  cases h with
  | keep b hb | pop x rest b hb | move S S' b hb | raise k S b hb | push x b hb => exact hb.legalCodes hs
  | commit | endDrain => exact hs

theorem StepCase.legalCodes {s t : State} (h : StepCase s t) (hs : LegalCodes s.codes) : LegalCodes t.codes := by
  cases h with
  | idle => exact hs
  | boundary => obtain ⟨-, h⟩ | ⟨-, -, h⟩ | ⟨-, -, h⟩ := s.boundaryStep_cases <;> rw [h] <;> exact hs
  | stage t hbusy hbound hexec hstep => exact hstep.legalCodes hs
  | host i t hstep =>
    cases hstep with
    | write t r hw => cases hw <;> exact hs
    | push | pop => exact hs
    | reset => exact legalCodes_nil

/-- Settles O52: the sizes stage by stage; the code table changes only to the map of an input or of a parsed table. -/
theorem everyStepKeepsTheBuffersFit : Obligations.EveryStepKeepsTheBuffersFit := by
  constructor
  · intro s t hinv hfit h
    obtain ⟨l, hcase⟩ := stepCase_of_step h
    exact hcase.buffersFit (hinv.setSched l) hfit
  · intro s t hs h
    obtain ⟨l, hcase⟩ := stepCase_of_step h
    exact hcase.legalCodes hs

end Sys2Proof.Machine
end

section
/-! PROOF. The commands, the register window and the ports: what one instruction of the host does
(45_commands.md R154 to R165). -/

namespace Sys2Proof.Machine

/-! ### The commands -/

theorem exec_compress (s : State) : exec .compress s = .next (s.startOrRefuse .compress) := rfl

theorem exec_decompress (s : State) : exec .decompress s = .next (s.startOrRefuse .decompress) := rfl

theorem exec_abort (s : State) : exec .abort s = .next s.abort := rfl

/-- Settles O3: with BUSY = 0 both starts are command start (45_commands.md R155). -/
theorem idleStartLatchesAndClears : Obligations.IdleStartLatchesAndClears := by
  intro s hbusy
  rw [exec_compress, exec_decompress, s.startOrRefuse_idle _ hbusy, s.startOrRefuse_idle _ hbusy]
  exact ⟨rfl, rfl⟩

/-- Settles O4: with BUSY = 1 both starts are refused; a reserved value is refused at any time. -/
theorem refusedCommandsSetOnlyCmdErr : Obligations.RefusedCommandsSetOnlyCmdErr := by
  refine ⟨fun s hbusy => ?_, fun s v => rfl⟩
  rw [exec_compress, exec_decompress, s.startOrRefuse_busy _ hbusy, s.startOrRefuse_busy _ hbusy]
  exact ⟨rfl, rfl⟩

/-- Settles O5: ABORT splits on BUSY. -/
theorem abortStopsTheEngine : Obligations.AbortStopsTheEngine :=
  ⟨fun s hbusy => by rw [exec_abort, s.abort_busy hbusy], fun s hbusy => by rw [exec_abort, s.abort_idle hbusy]⟩

/-- The command a CMD value is decoded to is the operation the write of it performs (30_encoding.md R77; 45_commands.md
R154). -/
theorem exec_decodeCommand (v : Word) (s : State) : exec (decodeCommand v) s = .next (s.commandWrite v) := by
  obtain rfl | rfl | rfl | rfl | hv := command_cases v
  · rfl
  · rfl
  · rfl
  · rfl
  · have hwrite : s.commandWrite v = s.refuseCommand := by
      obtain ⟨h, -⟩ | ⟨h, -⟩ | ⟨h, -⟩ | ⟨h, -⟩ | ⟨-, h⟩ := s.commandWrite_cases v
      case inr.inr.inr.inr => exact h
      all_goals omega
    rw [decodeCommand_reserved hv, hwrite]
    rfl

/-! ### The register window -/

/-- A write at an aligned offset is the write to the register there, and it is answered. -/
theorem exec_regWrite_of_aligned {off : BitVec 6} (hoff : alignedOffset off = true) (v : Word) (s : State) :
    exec (.regWrite off v) s = .next { s.writeReg off v with resp := .done } := by
  change Host.Outcome.next (s.busWrite off v) = _
  rw [s.busWrite_aligned off v hoff]
  rfl

theorem exec_cmdWrite (v : Word) (s : State) :
    ∃ t, exec (decodeCommand v) s = .next t ∧ exec (.regWrite 0x10 v) s = .next { t with resp := .done } :=
  ⟨s.commandWrite v, exec_decodeCommand v s, exec_regWrite_of_aligned rfl v s⟩

/-- Settles O6: the decoder's table, and the write to CMD read with the same table. -/
theorem commandWriteRunsTheDecodedCommand : Obligations.CommandWriteRunsTheDecodedCommand :=
  ⟨⟨rfl, rfl, rfl, rfl, fun _ hv => decodeCommand_reserved hv⟩, fun s v => exec_cmdWrite v s⟩

theorem writeReg_blockSize (s : State) (v : Word) :
    s.writeReg 0x08 v = if 1 ≤ v.toNat ∧ v.toNat ≤ s.cfg.maxBlockSize then { s with blockSize := v } else s := rfl

/-- An offset that is none of the five writable registers ignores the write (10_state.md section 4). -/
theorem writeReg_readOnly (s : State) (v : Word) {off : BitVec 6}
    (hoff : off ∈ ([0x00, 0x18, 0x1C, 0x20, 0x24, 0x28, 0x2C, 0x30, 0x34, 0x38, 0x3C] : List (BitVec 6))) :
    s.writeReg off v = s := by
  fin_cases hoff <;> rfl

/-- Settles O8: one clause for each register of the window. -/
theorem registerWritesStoreByTheFieldRules : Obligations.RegisterWritesStoreByTheFieldRules := by
  intro s v
  refine ⟨exec_regWrite_of_aligned rfl v s, fun hpos hmax => ?legal, fun hbad => ?illegal,
    exec_regWrite_of_aligned rfl v s, exec_cmdWrite v s, exec_regWrite_of_aligned rfl v s, fun off hoff => ?readOnly⟩
  case legal => rw [exec_regWrite_of_aligned rfl, writeReg_blockSize, if_pos ⟨hpos, hmax⟩]
  case illegal => rw [exec_regWrite_of_aligned rfl, writeReg_blockSize, if_neg (by omega)]
  case readOnly =>
    have haligned : alignedOffset off = true := by
      revert off
      decide
    rw [exec_regWrite_of_aligned haligned, writeReg_readOnly s v hoff]

/-- Settles O9: the decoder rejects the access of the turn, and the offset of a register instruction is checked again. -/
theorem illegalAccessGetsABusError : Obligations.IllegalAccessGetsABusError := by
  have illegal {addr size : Nat} (h : ¬(size = 4 ∧ addr % 4 = 0)) : ¬legalAccess addr size = true := by
    rwa [legalAccess_iff]
  refine ⟨fun s rest addr => ⟨fun size h => ?read, fun lanes h => ?write⟩, fun s off v hoff => ?offset⟩
  case read => simp only [step, hostTurn, decode, decodeHost, illegal h]; rfl
  case write => simp only [step, hostTurn, decode, decodeHost, illegal h]; rfl
  case offset =>
    have hbad : ¬alignedOffset off = true := by rwa [alignedOffset_iff]
    exact ⟨congrArg _ (if_neg hbad), congrArg _ (if_neg hbad)⟩

/-! ### The ports -/

/-- Settles O12: IN_PUSH splits on the port's readiness (45_commands.md R163). -/
theorem inPushIsAcceptedWhenReady : Obligations.InPushIsAcceptedWhenReady := by
  intro s b
  have hready := s.inReady_iff
  constructor
  · intro hbusy hroom hleft
    exact congrArg _ (if_pos (hready.mpr ⟨hbusy, hroom, hleft⟩))
  · intro hnot
    exact congrArg _ (if_neg fun h => hnot (hready.mp h))

theorem State.hostPop_of_nil {s : State} (h : s.outFifo = []) : s.hostPop = s.setResp .waits := by rw [State.hostPop, h]

theorem State.hostPop_of_cons {s : State} {b : Byte} {rest : List Byte} (h : s.outFifo = b :: rest) :
    s.hostPop = { s with outFifo := rest, resp := .byte b } := by rw [State.hostPop, h]

/-- Settles O13: OUT_POP splits on the OUT FIFO (45_commands.md R164). -/
theorem outPopTakesTheOldestByte : Obligations.OutPopTakesTheOldestByte :=
  ⟨fun _ _ _ hout => congrArg _ (State.hostPop_of_cons hout), fun _ hout => congrArg _ (State.hostPop_of_nil hout)⟩

end Sys2Proof.Machine
end

section
/-! PROOF. The steps of the sequencer, case by case: the boundary step, and the stages that move bytes
(44_pipeline.md R132, R133, R139, R140, R145, R147). -/

namespace Sys2Proof.Machine

/-! ### The turns -/

theorem decode_stageCode (S : Stage) : decode (.stage S.code) = .ok S.instr := by
  cases S <;> rfl

/-- Settles O49: a turn of the host runs what its action decodes to, a turn of the engine what the stage code does. -/
theorem aStepRunsTheDecodedInstruction : Obligations.AStepRunsTheDecodedInstruction := by
  constructor
  · intro s h rest i hi
    change hostTurn h _ = _
    rw [hostTurn, hi]
    rfl
  · intro s rest i hbusy hbound hi
    obtain rfl : s.stage.instr = i := Except.ok.inj ((decode_stageCode s.stage).symm.trans hi)
    exact ⟨engineTurn_stage { s with sched := rest } hbusy hbound, engineTurn_stage { s with sched := [] } hbusy hbound⟩

/-- The engine's turn keeps every field but the turns. -/
theorem State.EngineNext.eq_setSched {s u : State} (h : s.EngineNext u) : u = s.setSched u.sched := by
  obtain ⟨-, rfl⟩ | ⟨rest, -, rfl⟩ := h <;> rfl

/-- Settles O14: with BUSY = 0 the turn of the engine runs IDLE. -/
theorem idleEngineTakesNoStep : Obligations.IdleEngineTakesNoStep := by
  refine ⟨fun s => rfl, fun s u hnext hbusy => ?_⟩
  have hidle : u.busy = false := by
    rw [hnext.eq_setSched]
    exact hbusy
  rw [step_of_engineNext hnext, engineTurn_idle u hidle]

/-! ### The boundary step -/

theorem State.boundaryStep_spent {s : State} (h : s.rem = 0) : s.boundaryStep = s.endDone := if_pos h

theorem State.boundaryStep_compress {s : State} (h : s.rem ≠ 0) (hop : s.op = .compress) :
    s.boundaryStep = s.enterSplit := by rw [State.boundaryStep, if_neg h, hop]

theorem State.boundaryStep_decompress {s : State} (h : s.rem ≠ 0) (hop : s.op = .decompress) :
    s.boundaryStep = s.enterUnframe := by rw [State.boundaryStep, if_neg h, hop]

theorem State.rem_ne_zero {s : State} (h : s.inCount.toNat < s.latLen.toNat) : s.rem ≠ 0 :=
  Nat.sub_ne_zero_of_lt h

theorem State.rem_pos {s : State} (h : s.inCount.toNat < s.latLen.toNat) : 0 < s.rem := Nat.sub_pos_of_lt h

/-- The first field of a frame, as a choice on the mode (44_pipeline.md R140). -/
theorem State.enterUnframe_eq (s : State) : s.enterUnframe = { s with
    stage := .unframe, field := if s.mode = .explicitIndex then .idxCheck else .tabLenCheck
    need := 0, fbuf := [], boundary := false } := by
  unfold State.enterUnframe
  cases s.mode <;> rfl

/-- Settles O18: the boundary step splits on the input left and on the operation. -/
theorem boundaryStepEndsOrEntersABlock : Obligations.BoundaryStepEndsOrEntersABlock := by
  intro s u hnext hbusy hbound
  have hstep : step s = .next u.boundaryStep := by
    rw [step_of_engineNext hnext]
    rw [hnext.eq_setSched]
    exact engineTurn_boundary (s.setSched u.sched) hbusy hbound
  have hrem : u.rem = s.rem := (congrArg State.rem hnext.eq_setSched :)
  have hop : u.op = s.op := (congrArg State.op hnext.eq_setSched :)
  have hmode : u.mode = s.mode := (congrArg State.mode hnext.eq_setSched :)
  refine ⟨fun hspent => ?_, fun hleft hc => ?_, fun hleft hd => ?_⟩
  · rw [hstep, State.boundaryStep_spent (hrem.trans (s.rem_eq_zero.mpr hspent))]
    rfl
  · rw [hstep, State.boundaryStep_compress (hrem ▸ State.rem_ne_zero hleft) (hop.trans hc)]
    rfl
  · rw [hstep, State.boundaryStep_decompress (hrem ▸ State.rem_ne_zero hleft) (hop.trans hd), u.enterUnframe_eq, hmode]

/-! ### SPLIT -/

theorem State.inPop_cons {s : State} {b : Byte} {rest : List Byte} (h : s.inFifo = b :: rest) :
    s.inPop = some (b, s.popped rest) := by
  rw [State.inPop, h]
  rfl

theorem State.inPop_nil {s : State} (h : s.inFifo = []) : s.inPop = none := by rw [State.inPop, h]

theorem exec_split_take {s : State} {b : Byte} {rest : List Byte} (hmore : s.blk.length < s.latBs.toNat ∧ 0 < s.rem)
    (hin : s.inFifo = b :: rest) : exec .split s = .next { s.popped rest with blk := s.blk ++ [b] } := by
  change execSplit s = _
  rw [execSplit, if_pos hmore, State.inPop_cons hin]
  rfl

theorem exec_split_hold {s : State} (hmore : s.blk.length < s.latBs.toNat ∧ 0 < s.rem) (hin : s.inFifo = []) :
    exec .split s = .next s := by
  change execSplit s = _
  rw [execSplit, if_pos hmore, State.inPop_nil hin]

theorem exec_split_full {s : State} (hfull : ¬(s.blk.length < s.latBs.toNat ∧ 0 < s.rem)) :
    exec .split s = .next (s.setStage .bwt) := if_neg hfull

/-- Settles O15: SPLIT splits on the block, the input left and the IN FIFO. -/
theorem splitTakesTheBlock : Obligations.SplitTakesTheBlock := by
  refine ⟨fun s b rest hblk hleft hin => ?take, fun s hblk hleft hin => ?hold, fun s hfull => ?full⟩
  case take => exact exec_split_take ⟨hblk, State.rem_pos hleft⟩ hin
  case hold => exact exec_split_hold ⟨hblk, State.rem_pos hleft⟩ hin
  case full =>
    refine exec_split_full fun ⟨hblk, hrem⟩ => ?_
    obtain h | h := hfull
    · omega
    · exact hrem.ne' (s.rem_eq_zero.mpr h)

/-! ### FRAMED and JOIN -/

theorem exec_pushPending {i : Instr} (hi : i = .framed ∨ i = .join) (s : State) : exec i s = .next s.pushPending := by
  obtain rfl | rfl := hi <;> rfl

theorem State.pushPending_nil {s : State} (h : s.pend = []) : s.pushPending = s.commitBlock := by rw [State.pushPending, h]

theorem State.pushPending_push {s : State} {b : Byte} {rest : List Byte} (h : s.pend = b :: rest)
    (hroom : s.outRoom = true) : s.pushPending = { s.outPush b with pend := rest } := by
  rw [State.pushPending, h]
  exact if_pos hroom

theorem State.pushPending_hold {s : State} (h : s.pend ≠ []) (hfull : ¬s.outRoom = true) : s.pushPending = s := by
  obtain ⟨b, rest, h⟩ := List.exists_cons_of_ne_nil h
  rw [State.pushPending, h]
  exact if_neg hfull

/-- Settles O17: FRAMED and JOIN split on the pending bytes and on the room in the OUT FIFO. -/
theorem framedAndJoinPushThePendingBytes : Obligations.FramedAndJoinPushThePendingBytes := by
  intro i hi
  have hexec := exec_pushPending (i := i) (by simpa using hi)
  refine ⟨fun s b rest hpend hroom => ?push, fun s hpend hfull => ?hold, fun s hpend => ?commit⟩
  case push => rw [hexec, State.pushPending_push hpend (s.outRoom_iff.mpr hroom)]; rfl
  case hold => rw [hexec, State.pushPending_hold hpend (by rw [s.outRoom_iff]; omega)]
  case commit => rw [hexec, State.pushPending_nil hpend]; rfl

/-! ### DRAIN -/

theorem exec_drain (s : State) : exec .drain s = .next s.drainStep := rfl

theorem State.drainStep_spent {s : State} (h : s.rem = 0) : s.drainStep = s.endDrain := if_pos h

theorem State.drainStep_pop {s : State} {b : Byte} {rest : List Byte} (h : s.rem ≠ 0) (hin : s.inFifo = b :: rest) :
    s.drainStep = s.popped rest := by rw [State.drainStep, if_neg h, State.inPop_cons hin]

theorem State.drainStep_hold {s : State} (h : s.rem ≠ 0) (hin : s.inFifo = []) : s.drainStep = s := by
  rw [State.drainStep, if_neg h, State.inPop_nil hin]

/-- Settles O22: DRAIN splits on the input left and on the IN FIFO. -/
theorem drainDiscardsTheRestOfTheInput : Obligations.DrainDiscardsTheRestOfTheInput := by
  refine ⟨fun s b rest hleft hin => ?pop, fun s hleft hin => ?hold, fun s hspent => ?spent⟩
  case pop => rw [exec_drain, State.drainStep_pop (State.rem_ne_zero hleft) hin]; rfl
  case hold => rw [exec_drain, State.drainStep_hold (State.rem_ne_zero hleft) hin]
  case spent => rw [exec_drain, State.drainStep_spent (s.rem_eq_zero.mpr hspent)]; rfl

/-! ### UNFRAME -/

theorem exec_unframe (s : State) : exec .unframe s = .next s.unframeStep := rfl

/-- The fields of a length or an index, read into the field buffer (44_pipeline.md R140). -/
def FrameField.isNumber (f : FrameField) : Prop := f = .idx ∨ f = .tabLen ∨ f = .payLen

section Unframe

variable {s : State}

theorem unframeStep_number (hf : s.field.isNumber) (hneed : s.need ≠ 0) : s.unframeStep = s.takeFieldByte := by
  unfold State.unframeStep
  obtain h | h | h := hf <;> rw [h] <;> exact if_neg hneed

theorem unframeStep_tab (hf : s.field = .tab) (hneed : s.need ≠ 0) : s.unframeStep = s.takeTabByte := by
  rw [State.unframeStep, hf]
  exact if_neg hneed

theorem unframeStep_pay (hf : s.field = .pay) (hneed : s.need ≠ 0) : s.unframeStep = s.takePayByte := by
  rw [State.unframeStep, hf]
  exact if_neg hneed

theorem unframeStep_idxCheck (hf : s.field = .idxCheck) : s.unframeStep = s.checkFour .idx := by
  rw [State.unframeStep, hf]

theorem unframeStep_tabLenCheck (hf : s.field = .tabLenCheck) : s.unframeStep = s.checkFour .tabLen := by
  rw [State.unframeStep, hf]

theorem unframeStep_payLenCheck (hf : s.field = .payLenCheck) : s.unframeStep = s.checkFour .payLen := by
  rw [State.unframeStep, hf]

theorem unframeStep_idx_read (hf : s.field = .idx) (hneed : s.need = 0) :
    s.unframeStep = { s with pidx := BitVec.ofNat 32 (ofBE s.fbuf), field := .tabLenCheck } := by
  rw [State.unframeStep, hf]
  exact if_pos hneed

theorem unframeStep_tabLen_read (hf : s.field = .tabLen) (hneed : s.need = 0) : s.unframeStep = s.checkTabLen := by
  rw [State.unframeStep, hf]
  exact if_pos hneed

theorem unframeStep_tab_read (hf : s.field = .tab) (hneed : s.need = 0) :
    s.unframeStep = { s with field := .payLenCheck } := by
  rw [State.unframeStep, hf]
  exact if_pos hneed

theorem unframeStep_payLen_read (hf : s.field = .payLen) (hneed : s.need = 0) : s.unframeStep = s.checkPayLen := by
  rw [State.unframeStep, hf]
  exact if_pos hneed

theorem unframeStep_pay_read (hf : s.field = .pay) (hneed : s.need = 0) : s.unframeStep = s.setStage .entropyInv := by
  rw [State.unframeStep, hf]
  exact if_pos hneed

theorem takeFieldByte_cons {b : Byte} {rest : List Byte} (hin : s.inFifo = b :: rest) :
    s.takeFieldByte = { s.popped rest with fbuf := s.fbuf ++ [b], need := s.need - 1 } := by
  rw [State.takeFieldByte, State.inPop_cons hin]
  rfl

theorem takeTabByte_cons {b : Byte} {rest : List Byte} (hin : s.inFifo = b :: rest) :
    s.takeTabByte = { s.popped rest with tab := s.tab ++ [b], need := s.need - 1 } := by
  rw [State.takeTabByte, State.inPop_cons hin]
  rfl

theorem takePayByte_cons {b : Byte} {rest : List Byte} (hin : s.inFifo = b :: rest) :
    s.takePayByte = { s.popped rest with pay := s.pay ++ [b], need := s.need - 1 } := by
  rw [State.takePayByte, State.inPop_cons hin]
  rfl

theorem takeFieldByte_nil (hin : s.inFifo = []) : s.takeFieldByte = s := by
  rw [State.takeFieldByte, State.inPop_nil hin]

theorem takeTabByte_nil (hin : s.inFifo = []) : s.takeTabByte = s := by rw [State.takeTabByte, State.inPop_nil hin]

theorem takePayByte_nil (hin : s.inFifo = []) : s.takePayByte = s := by rw [State.takePayByte, State.inPop_nil hin]

theorem checkFour_pass (h : 4 ≤ s.rem) (f : FrameField) : s.checkFour f = { s with field := f, need := 4, fbuf := [] } :=
  if_neg (Nat.not_lt.mpr h)

theorem checkFour_fail (h : s.rem < 4) (f : FrameField) : s.checkFour f = s.raise .truncatedInput .unframe := if_pos h

theorem checkTabLen_pass (hrem : ofBE s.fbuf ≤ s.rem) (hmax : ofBE s.fbuf ≤ maxTableBytes) :
    s.checkTabLen = { s with field := .tab, need := ofBE s.fbuf, tab := [] } :=
  (if_neg (Nat.not_lt.mpr hrem)).trans (if_neg (Nat.not_lt.mpr hmax))

theorem checkTabLen_truncated (hrem : s.rem < ofBE s.fbuf) : s.checkTabLen = s.raise .truncatedInput .unframe := if_pos hrem

theorem checkTabLen_tooLong (hrem : ofBE s.fbuf ≤ s.rem) (hmax : maxTableBytes < ofBE s.fbuf) :
    s.checkTabLen = s.raise .malformedCodeTable .unframe := (if_neg (Nat.not_lt.mpr hrem)).trans (if_pos hmax)

theorem checkPayLen_pass (hrem : ofBE s.fbuf ≤ s.rem) (hpos : ofBE s.fbuf ≠ 0) :
    s.checkPayLen = { s with field := .pay, need := ofBE s.fbuf, pay := [] } :=
  (if_neg (Nat.not_lt.mpr hrem)).trans (if_neg hpos)

theorem checkPayLen_fail (h : s.rem < ofBE s.fbuf ∨ ofBE s.fbuf = 0) :
    s.checkPayLen = s.raise .truncatedInput .unframe := by
  by_cases hrem : s.rem < ofBE s.fbuf
  · exact if_pos hrem
  · exact (if_neg hrem).trans (if_pos (h.resolve_left hrem))

end Unframe

/-- Settles O19: UNFRAME at each field, with the field incomplete, complete, or its length still to be checked. -/
theorem unframeReadsTheFrame : Obligations.UnframeReadsTheFrame := by
  refine ⟨fun s b rest hneed hin => ⟨fun hf => ?number, fun hf => ?tab, fun hf => ?pay⟩, fun s hneed hin hf => ?hold,
    fun s hrem => ⟨fun hf => ?idxCheck, fun hf => ?tabLenCheck, fun hf => ?payLenCheck⟩,
    fun s hneed => ⟨fun hf => ?idx, fun hf hrem hmax => ?tabLen, fun hf => ?tabDone, fun hf hrem hpos => ?payLen,
      fun hf => ?payDone⟩⟩
  case number => rw [exec_unframe, unframeStep_number hf hneed.ne', takeFieldByte_cons hin]; rfl
  case tab => rw [exec_unframe, unframeStep_tab hf hneed.ne', takeTabByte_cons hin]; rfl
  case pay => rw [exec_unframe, unframeStep_pay hf hneed.ne', takePayByte_cons hin]; rfl
  case hold =>
    rw [exec_unframe]
    obtain hf | hf | hf | hf | hf := hf
    · rw [unframeStep_number (.inl hf) hneed.ne', takeFieldByte_nil hin]
    · rw [unframeStep_number (.inr (.inl hf)) hneed.ne', takeFieldByte_nil hin]
    · rw [unframeStep_number (.inr (.inr hf)) hneed.ne', takeFieldByte_nil hin]
    · rw [unframeStep_tab hf hneed.ne', takeTabByte_nil hin]
    · rw [unframeStep_pay hf hneed.ne', takePayByte_nil hin]
  case idxCheck => rw [exec_unframe, unframeStep_idxCheck hf, checkFour_pass hrem]
  case tabLenCheck => rw [exec_unframe, unframeStep_tabLenCheck hf, checkFour_pass hrem]
  case payLenCheck => rw [exec_unframe, unframeStep_payLenCheck hf, checkFour_pass hrem]
  case idx => rw [exec_unframe, unframeStep_idx_read hf hneed]
  case tabLen => rw [exec_unframe, unframeStep_tabLen_read hf hneed, checkTabLen_pass hrem hmax]
  case tabDone => rw [exec_unframe, unframeStep_tab_read hf hneed]
  case payLen => rw [exec_unframe, unframeStep_payLen_read hf hneed, checkPayLen_pass hrem (Nat.ne_of_gt hpos)]
  case payDone => rw [exec_unframe, unframeStep_pay_read hf hneed]; rfl

/-- Settles O20: the checks of UNFRAME that fail are error entry at stage 7. -/
theorem unframeRaisesOnABadLength : Obligations.UnframeRaisesOnABadLength := by
  refine ⟨fun s hrem hf => ?four, fun s hneed hf hrem => ?tabLen, fun s hneed hf hrem hmax => ?tooLong,
    fun s hneed hf h => ?payLen⟩
  case four =>
    rw [exec_unframe]
    obtain hf | hf | hf := hf
    · rw [unframeStep_idxCheck hf, checkFour_fail hrem]; rfl
    · rw [unframeStep_tabLenCheck hf, checkFour_fail hrem]; rfl
    · rw [unframeStep_payLenCheck hf, checkFour_fail hrem]; rfl
  case tabLen => rw [exec_unframe, unframeStep_tabLen_read hf hneed, checkTabLen_truncated hrem]; rfl
  case tooLong => rw [exec_unframe, unframeStep_tabLen_read hf hneed, checkTabLen_tooLong hrem hmax]; rfl
  case payLen => rw [exec_unframe, unframeStep_payLen_read hf hneed, checkPayLen_fail h]; rfl

end Sys2Proof.Machine
end

section
/-! PROOF. The stage functions (30_encoding.md R79): a stage is its function and the sequencer's move (44_pipeline.md R131,
R134 to R137, R141 to R144), and a function that does not raise touches the working buffers only. -/

namespace Sys2Proof.Machine

/-! ### The forward functions -/

/-- Settles O26: no forward function can fail on these data, and each writes its result buffers. -/
theorem forwardStageFunctionsWriteTheirResults : Obligations.ForwardStageFunctionsWriteTheirResults := by
  refine ⟨fun s => rfl, fun s hzero => ?_, fun s => rfl, fun s => rfl, fun s => rfl⟩
  change s.settle .bwt s.applyBwtFwdSentinel = _
  rw [applyBwtFwdSentinel_of_ok (bwtFwdSentinel_of_no_zero hzero)]
  rfl

/-! ### A stage is its function, then the move -/

/-- The outcome `a` is that of the function, `b` that of its stage: the function's state, finished by `f` unless it is in
error entry. -/
def RunsThenMoves (f : State → State) (a b : Result) : Prop :=
  ∃ t, a = .next t ∧ b = .next (if t.stage = .drain then t else f t)

/-- A function that passes keeps the stage, which is not DRAIN; one that fails is error entry. -/
theorem WritesBuffers.settle_map {ks : List ErrKind} {s : State} {r : Except ErrKind State} (h : WritesBuffers ks s r)
    (hs : s.stage ≠ .drain) (S : Stage) (f : State → State) :
    RunsThenMoves f (s.settle S r) (s.settle S (r.map f)) := by
  cases r with
  | ok t =>
    have hstage : t.stage = s.stage := (congrArg State.stage h.1 :)
    exact ⟨t, rfl, by rw [if_neg (hstage ▸ hs)]; rfl⟩
  | error k =>
    have hdrain : (s.raise k S).stage = .drain := rfl
    exact ⟨s.raise k S, rfl, by rw [if_pos hdrain]; rfl⟩

theorem moveTo_eq_map (S : Stage) (r : Except ErrKind State) : moveTo S r = r.map (State.setStage S) := by
  cases r <;> rfl

theorem moveTo_map (S : Stage) (r : Except ErrKind State) (f : State → State) :
    moveTo S (r.map f) = r.map fun t => (f t).setStage S := by
  cases r <;> rfl

/-- A transform stage, from the rules of its function (44_pipeline.md R131). -/
theorem WritesBuffers.settle_moveTo_runs {ks : List ErrKind} {s : State} {r : Except ErrKind State}
    (h : WritesBuffers ks s r) (hs : s.stage ≠ .drain) (S S' : Stage) :
    RunsThenMoves (State.setStage S') (s.settle S r) (s.settle S (moveTo S' r)) := by
  rw [moveTo_eq_map]
  exact h.settle_map hs S _

theorem exec_bwt_runs {s : State} (hs : s.stage ≠ .drain) :
    RunsThenMoves (State.setStage .mtf)
      (exec (if s.mode = .explicitIndex then .bwtFwdExplicit else .bwtFwdSentinel) s) (exec .bwt s) := by
  cases hmode : s.mode with
  | explicitIndex =>
    rw [exec_bwt_explicitIndex hmode]
    exact (applyBwtFwdExplicit_writes s).settle_moveTo_runs hs .bwt .mtf
  | sentinel =>
    rw [exec_bwt_sentinel hmode]
    exact (applyBwtFwdSentinel_writes s).settle_moveTo_runs hs .bwt .mtf

/-- BWT_INV queues the block it has computed (44_pipeline.md R144). -/
theorem exec_bwtInv_runs {s : State} (hs : s.stage ≠ .drain) :
    RunsThenMoves (fun t => t.queueBlock.setStage .join)
      (exec (if s.mode = .explicitIndex then .bwtInvExplicit else .bwtInvSentinel) s) (exec .bwtInv s) := by
  rw [exec_bwtInv_eq]
  cases hmode : s.mode with
  | explicitIndex =>
    rw [if_pos rfl, if_pos rfl, moveTo_map]
    exact (applyBwtInvExplicit_writes s).settle_map hs .bwtInv _
  | sentinel =>
    rw [if_neg (by decide), if_neg (by decide), moveTo_map]
    exact (applyBwtInvSentinel_writes s).settle_map hs .bwtInv _

/-- HUF_DEC, applied to what TAB_PARSE left, and the move: the second half of ENTROPY_INV (44_pipeline.md R141). -/
theorem exec_entropyInv_runs {s : State} (hs : s.stage = .entropyInv) :
    ∃ t, exec .tabParse s = .next t ∧ (t.stage = .drain → exec .entropyInv s = .next t) ∧
      (t.stage ≠ .drain → RunsThenMoves (State.setStage .rleInv) (exec .hufDec t) (exec .entropyInv s)) := by
  have hexec : exec .tabParse s = s.settle .entropyInv s.applyTabParse := rfl
  cases htab : tabParse s.tab with
  | ok c =>
    rw [hexec, applyTabParse_of_ok htab, exec_entropyInv_of_table htab]
    refine ⟨{ s with codes := c }, rfl, fun h => ?_, fun h => ?_⟩
    · cases hs.symm.trans h
    · exact (applyHufDec_writes { s with codes := c }).settle_moveTo_runs h .entropyInv .rleInv
  | error k =>
    rw [hexec, applyTabParse_of_error htab, exec_entropyInv_of_no_table htab]
    exact ⟨s.raise k .entropyInv, rfl, fun _ => rfl, fun h => absurd rfl h⟩

/-- Settles O28: each stage from the rule of its function. -/
theorem stageRunsItsFunctionThenMoves : Obligations.StageRunsItsFunctionThenMoves := by
  intro s
  refine ⟨fun p hp hstage => ?transforms, ⟨_, rfl, rfl⟩, fun hstage => exec_bwtInv_runs (by simp [hstage]),
    exec_entropyInv_runs⟩
  simp only [List.mem_cons, List.not_mem_nil, or_false] at hp
  obtain rfl | rfl | rfl | rfl | rfl := hp
  · exact (applyMtfEnc_writes s).settle_moveTo_runs (by simp [hstage]) .mtf .rle
  · exact (applyRleEnc_writes s).settle_moveTo_runs (by simp [hstage]) .rle .entropy
  · exact (applyRleDec_writes s).settle_moveTo_runs (by simp [hstage]) .rleInv .mtfInv
  · exact (applyMtfDec_writes s).settle_moveTo_runs (by simp [hstage]) .mtfInv .bwtInv
  · exact exec_bwt_runs (by simp [hstage])

/-! ### What a stage function leaves unchanged -/

/-- The register window shows no working buffer (10_state.md section 4). -/
theorem readReg_congr {s t : State} (h : s.forget = t.forget) (off : BitVec 6) : s.readReg off = t.readReg off :=
  (congrArg (State.readReg off) h : s.forget.readReg off = t.forget.readReg off)

theorem WritesBuffers.settle_forget {ks : List ErrKind} {s t : State} {r : Except ErrKind State}
    (h : WritesBuffers ks s r) {S : Stage} (ht : s.settle S r = .next t) (hpass : t.errored = false) :
    t.forget = s.forget := by
  cases r with
  | ok u =>
    obtain rfl : u = t := Host.Outcome.next.inj ht
    rw [h.1, State.forget_withBuffers]
  | error k =>
    obtain rfl : s.raise k S = t := Host.Outcome.next.inj ht
    cases hpass

/-- Settles O29: every stage function writes buffers or raises. -/
theorem stageFunctionsTouchOnlyBuffers : Obligations.StageFunctionsTouchOnlyBuffers := by
  intro i hi s t ht _ hpass
  suffices hforget : t.forget = s.forget from ⟨hforget, fun off => readReg_congr hforget off⟩
  simp only [List.mem_cons, List.not_mem_nil, or_false] at hi
  obtain rfl | rfl | rfl | rfl | rfl | rfl | rfl | rfl | rfl | rfl | rfl := hi
  · exact (applyBwtFwdExplicit_writes s).settle_forget (S := .bwt) ht hpass
  · exact (applyBwtFwdSentinel_writes s).settle_forget (S := .bwt) ht hpass
  · exact (applyBwtInvExplicit_writes s).settle_forget (S := .bwtInv) ht hpass
  · exact (applyBwtInvSentinel_writes s).settle_forget (S := .bwtInv) ht hpass
  · exact (applyMtfEnc_writes s).settle_forget (S := .mtf) ht hpass
  · exact (applyMtfDec_writes s).settle_forget (S := .mtfInv) ht hpass
  · exact (applyRleEnc_writes s).settle_forget (S := .rle) ht hpass
  · exact (applyRleDec_writes s).settle_forget (S := .rleInv) ht hpass
  · exact (applyHufEnc_writes s).settle_forget (S := .entropy) ht hpass
  · exact (applyHufDec_writes s).settle_forget (S := .entropyInv) ht hpass
  · exact (applyTabParse_writes s).settle_forget (S := .entropyInv) ht hpass

end Sys2Proof.Machine
end

section
/-! PROOF. Dead buffers are not observable (44_pipeline.md R149). Two states with one live part agree in everything but dead
buffers; for each stage it is said which buffers they agree in, and then that its step leads to such states again. -/

namespace Sys2Proof.Machine

/-! ### The live part, stage by stage -/

theorem State.forget_live (s : State) : s.live.forget = s.forget := by
  have hframe : s.liveFrame.forget = s.forget := by
    unfold State.liveFrame
    cases s.field <;> rfl
  unfold State.live
  cases s.boundary with
  | true => rfl
  | false =>
    cases s.stage with
    | unframe => exact hframe
    | _ => rfl

/-- Equal live parts agree in every field that is no buffer. -/
theorem forget_eq_of_live_eq {s t : State} (h : s.live = t.live) : s.forget = t.forget := by
  rw [← s.forget_live, h, t.forget_live]

/-- No buffer is live. -/
def State.NoneLive (s : State) : Prop := s.boundary = true ∨ s.stage = .idle ∨ s.stage = .drain

theorem State.NoneLive.live_eq {s : State} (h : s.NoneLive) : s.live = s.forget := by
  unfold State.live
  obtain h | h | h := h <;> simp [h]

theorem State.NoneLive.congr {s t : State} (h : s.NoneLive) (hst : s.forget = t.forget) : t.NoneLive := by
  have hbound : s.boundary = t.boundary := (congrArg State.boundary hst :)
  have hstage : s.stage = t.stage := (congrArg State.stage hst :)
  rwa [State.NoneLive, ← hbound, ← hstage]

theorem State.NoneLive.live_congr {s t : State} (h : s.NoneLive) (hst : s.forget = t.forget) : s.live = t.live := by
  rw [h.live_eq, (h.congr hst).live_eq, hst]

theorem liveIndex_explicitIndex {s : State} (h : s.mode = .explicitIndex) : s.liveIndex = s.pidx := by
  simp [State.liveIndex, h]

theorem liveIndex_sentinel {s : State} (h : s.mode = .sentinel) : s.liveIndex = 0 := by simp [State.liveIndex, h]

theorem frameBytes_liveIndex (s : State) (tab pay : List Byte) :
    frameBytes s.mode s.pidx tab pay = frameBytes s.mode s.liveIndex tab pay := by
  rw [State.liveIndex]
  cases s.mode <;> rfl

/-- The live fields of UNFRAME at a field of the frame agree (44_pipeline.md R140). -/
def AgreeAt (f : FrameField) (s t : State) : Prop :=
  match f with
  | .idxCheck => True
  | .idx => s.need = t.need ∧ s.fbuf = t.fbuf
  | .tabLenCheck => s.liveIndex = t.liveIndex
  | .tabLen => s.liveIndex = t.liveIndex ∧ s.need = t.need ∧ s.fbuf = t.fbuf
  | .tab => s.liveIndex = t.liveIndex ∧ s.need = t.need ∧ s.tab = t.tab
  | .payLenCheck => s.liveIndex = t.liveIndex ∧ s.tab = t.tab
  | .payLen => s.liveIndex = t.liveIndex ∧ s.tab = t.tab ∧ s.need = t.need ∧ s.fbuf = t.fbuf
  | .pay => s.liveIndex = t.liveIndex ∧ s.tab = t.tab ∧ s.need = t.need ∧ s.pay = t.pay

/-- Both states stand at one field of the frame, and agree in what is live there. -/
def SameFrame (s t : State) : Prop := s.field = t.field ∧ AgreeAt s.field s t

section Views

variable {s t : State} (hs : s.boundary = false) (ht : t.boundary = false)

include hs ht

theorem live_eq_iff_blk (hS : s.stage = .split ∨ s.stage = .bwt) (hT : t.stage = .split ∨ t.stage = .bwt) :
    s.live = t.live ↔ s.forget = t.forget ∧ s.blk = t.blk := by
  have hlive {u : State} (hb : u.boundary = false) (hu : u.stage = .split ∨ u.stage = .bwt) :
      u.live = { u.forget with blk := u.blk } := by
    obtain hu | hu := hu <;> simp [State.live, hb, hu]
  rw [hlive hs hS, hlive ht hT]
  exact ⟨fun h => ⟨(congrArg State.forget h :), (congrArg State.blk h :)⟩, fun ⟨h, h'⟩ => by rw [h, h']⟩

theorem live_eq_iff_colL (hS : s.stage = .mtf ∨ s.stage = .bwtInv) (hT : t.stage = .mtf ∨ t.stage = .bwtInv) :
    s.live = t.live ↔ s.forget = t.forget ∧ s.colL = t.colL ∧ s.liveIndex = t.liveIndex := by
  have hlive {u : State} (hb : u.boundary = false) (hu : u.stage = .mtf ∨ u.stage = .bwtInv) :
      u.live = { u.forget with colL := u.colL, pidx := u.liveIndex } := by
    obtain hu | hu := hu <;> simp [State.live, hb, hu]
  rw [hlive hs hS, hlive ht hT]
  exact ⟨fun h => ⟨(congrArg State.forget h :), (congrArg State.colL h :), (congrArg State.pidx h :)⟩,
    fun ⟨h, h', h''⟩ => by rw [h, h', h'']⟩

theorem live_eq_iff_rankM (hS : s.stage = .rle ∨ s.stage = .mtfInv) (hT : t.stage = .rle ∨ t.stage = .mtfInv) :
    s.live = t.live ↔ s.forget = t.forget ∧ s.rankM = t.rankM ∧ s.liveIndex = t.liveIndex := by
  have hlive {u : State} (hb : u.boundary = false) (hu : u.stage = .rle ∨ u.stage = .mtfInv) :
      u.live = { u.forget with rankM := u.rankM, pidx := u.liveIndex } := by
    obtain hu | hu := hu <;> simp [State.live, hb, hu]
  rw [hlive hs hS, hlive ht hT]
  exact ⟨fun h => ⟨(congrArg State.forget h :), (congrArg State.rankM h :), (congrArg State.pidx h :)⟩,
    fun ⟨h, h', h''⟩ => by rw [h, h', h'']⟩

theorem live_eq_iff_pairR (hS : s.stage = .entropy ∨ s.stage = .rleInv) (hT : t.stage = .entropy ∨ t.stage = .rleInv) :
    s.live = t.live ↔ s.forget = t.forget ∧ s.pairR = t.pairR ∧ s.liveIndex = t.liveIndex := by
  have hlive {u : State} (hb : u.boundary = false) (hu : u.stage = .entropy ∨ u.stage = .rleInv) :
      u.live = { u.forget with pairR := u.pairR, pidx := u.liveIndex } := by
    obtain hu | hu := hu <;> simp [State.live, hb, hu]
  rw [hlive hs hS, hlive ht hT]
  exact ⟨fun h => ⟨(congrArg State.forget h :), (congrArg State.pairR h :), (congrArg State.pidx h :)⟩,
    fun ⟨h, h', h''⟩ => by rw [h, h', h'']⟩

theorem live_eq_iff_pend (hS : s.stage = .framed ∨ s.stage = .join) (hT : t.stage = .framed ∨ t.stage = .join) :
    s.live = t.live ↔ s.forget = t.forget ∧ s.pend = t.pend := by
  have hlive {u : State} (hb : u.boundary = false) (hu : u.stage = .framed ∨ u.stage = .join) :
      u.live = { u.forget with pend := u.pend } := by
    obtain hu | hu := hu <;> simp [State.live, hb, hu]
  rw [hlive hs hS, hlive ht hT]
  exact ⟨fun h => ⟨(congrArg State.forget h :), (congrArg State.pend h :)⟩, fun ⟨h, h'⟩ => by rw [h, h']⟩

theorem live_eq_iff_entropyInv (hS : s.stage = .entropyInv) (hT : t.stage = .entropyInv) :
    s.live = t.live ↔ s.forget = t.forget ∧ s.tab = t.tab ∧ s.pay = t.pay ∧ s.liveIndex = t.liveIndex := by
  have hlive {u : State} (hb : u.boundary = false) (hu : u.stage = .entropyInv) :
      u.live = { u.forget with tab := u.tab, pay := u.pay, pidx := u.liveIndex } := by
    simp [State.live, hb, hu]
  rw [hlive hs hS, hlive ht hT]
  exact ⟨fun h => ⟨(congrArg State.forget h :), (congrArg State.tab h :), (congrArg State.pay h :), (congrArg State.pidx h :)⟩,
    fun ⟨h, h', h'', h'''⟩ => by rw [h, h', h'', h''']⟩

omit hs ht in
theorem SameFrame.intro {f : FrameField} (hf : s.field = f) (hf' : t.field = f) (h : AgreeAt f s t) : SameFrame s t :=
  ⟨hf.trans hf'.symm, by rwa [hf]⟩

theorem live_eq_iff_unframe (hS : s.stage = .unframe) (hT : t.stage = .unframe) :
    s.live = t.live ↔ s.forget = t.forget ∧ SameFrame s t := by
  have hlive {u : State} (hb : u.boundary = false) (hu : u.stage = .unframe) : u.live = u.liveFrame := by
    simp [State.live, hb, hu]
  have hfield (u : State) : u.liveFrame.field = u.field := by
    unfold State.liveFrame
    split <;> rfl
  rw [hlive hs hS, hlive ht hT]
  constructor
  · intro h
    have hforget : s.forget = t.forget := forget_eq_of_live_eq (by rw [hlive hs hS, hlive ht hT, h])
    have hf : s.field = t.field := by rw [← hfield s, h, hfield t]
    refine ⟨hforget, hf, ?_⟩
    unfold State.liveFrame at h
    rw [← hf] at h
    cases hsf : s.field <;> simp only [hsf, AgreeAt] at h ⊢
    case idx => exact ⟨(congrArg State.need h :), (congrArg State.fbuf h :)⟩
    case tabLenCheck => exact (congrArg State.pidx h :)
    case tabLen => exact ⟨(congrArg State.pidx h :), (congrArg State.need h :), (congrArg State.fbuf h :)⟩
    case tab => exact ⟨(congrArg State.pidx h :), (congrArg State.need h :), (congrArg State.tab h :)⟩
    case payLenCheck => exact ⟨(congrArg State.pidx h :), (congrArg State.tab h :)⟩
    case payLen =>
      exact ⟨(congrArg State.pidx h :), (congrArg State.tab h :), (congrArg State.need h :), (congrArg State.fbuf h :)⟩
    case pay => exact ⟨(congrArg State.pidx h :), (congrArg State.tab h :), (congrArg State.need h :), (congrArg State.pay h :)⟩
  · rintro ⟨hforget, hf, hrest⟩
    unfold State.liveFrame
    rw [← hf]
    cases hsf : s.field <;> simp only [hsf, AgreeAt] at hrest ⊢ <;> simp only [hforget, hrest]

end Views

end Sys2Proof.Machine
end

section
/-! PROOF. Each step takes states with one live part to states with one live part (44_pipeline.md R149): the host's actions and
the boundary step do not read the buffers, and a stage reads the live ones only. -/

namespace Sys2Proof.Machine

/-! ### The host's actions -/

/-- The state `s` with the host's side of `h`: registers, flags, ports, the answer and the turns. -/
def State.withHostSide (s h : State) : State :=
  { s with
    ctrl := h.ctrl, blockSize := h.blockSize, inLen := h.inLen, done := h.done, err := h.err, cmdErr := h.cmdErr
    aborted := h.aborted, inFifo := h.inFifo, inAccepted := h.inAccepted, outFifo := h.outFifo, resp := h.resp
    sched := h.sched }

theorem State.liveFrame_withHostSide (s h : State) : (s.withHostSide h).liveFrame = s.liveFrame.withHostSide h := by
  have hfield : (s.withHostSide h).field = s.field := rfl
  unfold State.liveFrame
  rw [hfield]
  cases s.field <;> rfl

/-- The host's side has no part in what is live. -/
theorem State.live_withHostSide (s h : State) : (s.withHostSide h).live = s.live.withHostSide h := by
  have hboundary : (s.withHostSide h).boundary = s.boundary := rfl
  have hstage : (s.withHostSide h).stage = s.stage := rfl
  unfold State.live
  rw [hboundary, hstage, s.liveFrame_withHostSide]
  cases s.boundary
  · cases s.stage <;> rfl
  · rfl

theorem live_eq_of_hostSide {s t s' t' : State} (h : s.live = t.live) (hs : s' = s.withHostSide s')
    (ht : t' = t.withHostSide t') (hforget : s'.forget = t'.forget) : s'.live = t'.live := by
  have hside (u : State) : u.withHostSide s' = u.withHostSide t' :=
    (congrArg (State.withHostSide u) hforget : u.withHostSide s'.forget = u.withHostSide t'.forget)
  rw [hs, ht, State.live_withHostSide, State.live_withHostSide, h, hside]

/-- A host action changes the host's side alone, or it leaves no buffer live. -/
theorem HostStep.hostSide_or_noneLive {i : Instr} {s t : State} (h : HostStep i s t) :
    t = s.withHostSide t ∨ t.NoneLive := by
  cases h with
  | write t r hw =>
    cases hw with
    | start => exact .inr (.inl rfl)
    | abort => exact .inr (.inr (.inl rfl))
    | nothing | refuse | ctrl | blockSize | inLen | w1c => exact .inl rfl
  | push | pop => exact .inl rfl
  | reset => exact .inr (.inr (.inl rfl))

/-! The host's operations do not read the buffers. -/

theorem forget_startOrRefuse (o : Op) (s : State) : (s.forget.startOrRefuse o).forget = (s.startOrRefuse o).forget := by
  cases hbusy : s.busy with
  | false => rw [s.startOrRefuse_idle o hbusy, s.forget.startOrRefuse_idle o hbusy]; rfl
  | true => rw [s.startOrRefuse_busy o hbusy, s.forget.startOrRefuse_busy o hbusy]; rfl

theorem forget_abort (s : State) : s.forget.abort.forget = s.abort.forget := by
  cases hbusy : s.busy with
  | false => rw [s.abort_idle hbusy, s.forget.abort_idle hbusy]; rfl
  | true => rw [s.abort_busy hbusy, s.forget.abort_busy hbusy]; rfl

theorem forget_commandWrite (v : Word) (s : State) : (s.forget.commandWrite v).forget = (s.commandWrite v).forget := by
  unfold State.commandWrite
  split
  · rfl
  · exact forget_startOrRefuse _ s
  · exact forget_startOrRefuse _ s
  · exact forget_abort s
  · rfl

theorem forget_ite {p : Prop} [Decidable p] {s s' t t' : State} (hs : s.forget = s'.forget) (ht : t.forget = t'.forget) :
    (if p then s else t).forget = (if p then s' else t').forget := by
  split
  · exact hs
  · exact ht

theorem forget_writeReg (off : BitVec 6) (v : Word) (s : State) :
    (s.forget.writeReg off v).forget = (s.writeReg off v).forget := by
  unfold State.writeReg
  split
  · rfl
  · exact forget_ite rfl rfl
  · rfl
  · exact forget_commandWrite v s
  · rfl
  · rfl

/-- The answer is not a buffer. -/
theorem forget_setResp {s t : State} (h : s.forget = t.forget) (r : Response) :
    (s.setResp r).forget = (t.setResp r).forget :=
  (congrArg (State.setResp r) h :)

theorem forget_busWrite (off : BitVec 6) (v : Word) (s : State) :
    (s.forget.busWrite off v).forget = (s.busWrite off v).forget :=
  forget_ite (forget_setResp (forget_writeReg off v s) _) rfl

theorem forget_busRead (off : BitVec 6) (s : State) : (s.forget.busRead off).forget = (s.busRead off).forget :=
  forget_ite rfl rfl

theorem forget_hostPush (b : Byte) (s : State) : (s.forget.hostPush b).forget = (s.hostPush b).forget :=
  forget_ite rfl rfl

theorem forget_hostPop (s : State) : s.forget.hostPop.forget = s.hostPop.forget := by
  have hsame : s.forget.outFifo = s.outFifo := rfl
  unfold State.hostPop
  rw [hsame]
  cases s.outFifo <;> rfl

/-- A turn of the host does not read the buffers. -/
theorem hostTurn_forget (h : HostOp) (s : State) :
    ∃ t u, hostTurn h s = .next t ∧ hostTurn h s.forget = .next u ∧ u.forget = t.forget := by
  cases h with
  | command v =>
    obtain rfl | rfl | rfl | rfl | hv := command_cases v
    · exact ⟨_, _, rfl, rfl, rfl⟩
    · exact ⟨_, _, rfl, rfl, forget_startOrRefuse _ s⟩
    · exact ⟨_, _, rfl, rfl, forget_startOrRefuse _ s⟩
    · exact ⟨_, _, rfl, rfl, forget_abort s⟩
    · simp only [hostTurn, decode, decodeHost, decodeCommand_reserved hv]
      exact ⟨_, _, rfl, rfl, rfl⟩
  | read addr size =>
    by_cases h : legalAccess addr size = true <;> simp only [hostTurn, decode, decodeHost, h]
    · exact ⟨_, _, rfl, rfl, forget_busRead _ s⟩
    · exact ⟨_, _, rfl, rfl, rfl⟩
  | write addr lanes =>
    by_cases h : legalAccess addr lanes.length = true <;> simp only [hostTurn, decode, decodeHost, h]
    · exact ⟨_, _, rfl, rfl, forget_busWrite _ _ s⟩
    · exact ⟨_, _, rfl, rfl, rfl⟩
  | push b => exact ⟨_, _, rfl, rfl, forget_hostPush b s⟩
  | pop => exact ⟨_, _, rfl, rfl, forget_hostPop s⟩
  | reset => exact ⟨_, _, rfl, rfl, rfl⟩

/-- Two outcomes with one live part. -/
def SameLive (a b : Result) : Prop := ∃ s t, a = .next s ∧ b = .next t ∧ s.live = t.live

theorem hostTurn_sameLive (h : HostOp) {s t : State} (hst : s.live = t.live) : SameLive (hostTurn h s) (hostTurn h t) := by
  have hforget := forget_eq_of_live_eq hst
  obtain ⟨s', i, hs', hstep⟩ := hostTurn_hostStep h s
  obtain ⟨t', j, ht', htstep⟩ := hostTurn_hostStep h t
  obtain ⟨a, u, ha, hu, hua⟩ := hostTurn_forget h s
  obtain ⟨b, v, hb, hv, hvb⟩ := hostTurn_forget h t
  obtain rfl : a = s' := Host.Outcome.next.inj (ha.symm.trans hs')
  obtain rfl : b = t' := Host.Outcome.next.inj (hb.symm.trans ht')
  rw [hforget] at hu
  obtain rfl : u = v := Host.Outcome.next.inj (hu.symm.trans hv)
  have hsame : a.forget = b.forget := hua.symm.trans hvb
  refine ⟨a, b, hs', ht', ?_⟩
  obtain hside | hnone := hstep.hostSide_or_noneLive
  · obtain hside' | hnone := htstep.hostSide_or_noneLive
    · exact live_eq_of_hostSide hst hside hside' hsame
    · exact (hnone.live_congr hsame.symm).symm
  · exact hnone.live_congr hsame

/-! ### The boundary step -/

theorem boundaryStep_live {s t : State} (hst : s.forget = t.forget) : s.boundaryStep.live = t.boundaryStep.live := by
  have hrem : s.rem = t.rem := (congrArg State.rem hst :)
  have hop : s.op = t.op := (congrArg State.op hst :)
  have hmode : s.mode = t.mode := (congrArg State.mode hst :)
  unfold State.boundaryStep
  rw [← hrem, ← hop]
  split
  · exact State.NoneLive.live_congr (.inr (.inl rfl)) (congrArg State.endDone hst :)
  · split
    · exact (live_eq_iff_blk rfl rfl (.inl rfl) (.inl rfl)).mpr ⟨(congrArg State.enterSplit hst :), rfl⟩
    · refine (live_eq_iff_unframe rfl rfl rfl rfl).mpr ⟨(congrArg (fun u : State => u.enterUnframe.forget) hst :), ?_⟩
      unfold State.enterUnframe
      rw [← hmode]
      cases hm : s.mode with
      | explicitIndex => exact ⟨rfl, trivial⟩
      | sentinel => exact ⟨rfl, rfl⟩

/-! ### The stages -/

theorem raise_sameLive {s t : State} (hst : s.forget = t.forget) (k : ErrKind) (S : Stage) :
    (s.raise k S).live = (t.raise k S).live :=
  State.NoneLive.live_congr (.inr (.inr rfl)) (congrArg (State.raise k S) hst :)

/-- A stage enters the stage `S` with its buffers written, and no buffer is in the rest of the state. -/
theorem forget_setStage {s t : State} (hst : s.forget = t.forget) (S : Stage) :
    (s.setStage S).forget = (t.setStage S).forget := (congrArg (State.setStage S) hst :)

theorem forget_popped {s t : State} (hst : s.forget = t.forget) (rest : List Byte) :
    (s.popped rest).forget = (t.popped rest).forget := (congrArg (State.popped rest) hst :)

section Stages

variable {s t : State} (hs : s.boundary = false) (ht : t.boundary = false) (hst : s.live = t.live)

include hs ht hst

theorem split_sameLive (hS : s.stage = .split) (hT : t.stage = .split) : SameLive (exec .split s) (exec .split t) := by
  obtain ⟨hforget, hblk⟩ := (live_eq_iff_blk hs ht (.inl hS) (.inl hT)).mp hst
  have hin : s.inFifo = t.inFifo := (congrArg State.inFifo hforget :)
  have hlat : s.latBs = t.latBs := (congrArg State.latBs hforget :)
  have hrem : s.rem = t.rem := (congrArg State.rem hforget :)
  by_cases hmore : s.blk.length < s.latBs.toNat ∧ 0 < s.rem
  · have hmore' : t.blk.length < t.latBs.toNat ∧ 0 < t.rem := by rwa [← hblk, ← hlat, ← hrem]
    cases hfifo : s.inFifo with
    | nil => exact ⟨s, t, exec_split_hold hmore hfifo, exec_split_hold hmore' (hin ▸ hfifo), hst⟩
    | cons b rest =>
      refine ⟨_, _, exec_split_take hmore hfifo, exec_split_take hmore' (hin ▸ hfifo),
        (live_eq_iff_blk (by exact hs) (by exact ht) (.inl (by exact hS)) (.inl (by exact hT))).mpr
          ⟨forget_popped hforget rest, congrArg (· ++ [b]) hblk⟩⟩
  · have hmore' : ¬(t.blk.length < t.latBs.toNat ∧ 0 < t.rem) := by rwa [← hblk, ← hlat, ← hrem]
    exact ⟨_, _, exec_split_full hmore, exec_split_full hmore',
      (live_eq_iff_blk (by exact hs) (by exact ht) (.inr rfl) (.inr rfl)).mpr ⟨forget_setStage hforget _, hblk⟩⟩

theorem bwt_sameLive (hS : s.stage = .bwt) (hT : t.stage = .bwt) : SameLive (exec .bwt s) (exec .bwt t) := by
  obtain ⟨hforget, hblk⟩ := (live_eq_iff_blk hs ht (.inr hS) (.inr hT)).mp hst
  have hmode : s.mode = t.mode := (congrArg State.mode hforget :)
  cases hm : s.mode with
  | explicitIndex =>
    rw [exec_bwt_explicitIndex hm, exec_bwt_explicitIndex (hmode ▸ hm)]
    refine ⟨_, _, rfl, rfl, (live_eq_iff_colL (by exact hs) (by exact ht) (.inl rfl) (.inl rfl)).mpr
        ⟨forget_setStage hforget _, ?_, ?_⟩⟩
    · exact congrArg (fun B => (bwtFwdExplicit B).1) hblk
    · rw [liveIndex_explicitIndex (by exact hm), liveIndex_explicitIndex (by exact hmode ▸ hm)]
      exact congrArg (fun B => (bwtFwdExplicit B).2) hblk
  | sentinel =>
    rw [exec_bwt_sentinel hm, exec_bwt_sentinel (hmode ▸ hm)]
    cases hL : bwtFwdSentinel s.blk with
    | ok L =>
      rw [applyBwtFwdSentinel_of_ok hL, applyBwtFwdSentinel_of_ok (hblk ▸ hL)]
      refine ⟨_, _, rfl, rfl, (live_eq_iff_colL (by exact hs) (by exact ht) (.inl rfl) (.inl rfl)).mpr
          ⟨forget_setStage hforget _, rfl, ?_⟩⟩
      rw [liveIndex_sentinel (by exact hm), liveIndex_sentinel (by exact hmode ▸ hm)]
    | error k =>
      rw [applyBwtFwdSentinel_of_error hL, applyBwtFwdSentinel_of_error (hblk ▸ hL)]
      exact ⟨_, _, rfl, rfl, raise_sameLive hforget k _⟩

theorem mtf_sameLive (hS : s.stage = .mtf) (hT : t.stage = .mtf) : SameLive (exec .mtf s) (exec .mtf t) := by
  obtain ⟨hforget, hL, hidx⟩ := (live_eq_iff_colL hs ht (.inl hS) (.inl hT)).mp hst
  refine ⟨_, _, exec_mtf s, exec_mtf t, (live_eq_iff_rankM (by exact hs) (by exact ht) (.inl rfl) (.inl rfl)).mpr
    ⟨forget_setStage hforget _, ?_, hidx⟩⟩
  exact congrArg (fun L => (mtfEnc L).1) hL

theorem rle_sameLive (hS : s.stage = .rle) (hT : t.stage = .rle) : SameLive (exec .rle s) (exec .rle t) := by
  obtain ⟨hforget, hM, hidx⟩ := (live_eq_iff_rankM hs ht (.inl hS) (.inl hT)).mp hst
  exact ⟨_, _, exec_rle s, exec_rle t, (live_eq_iff_pairR (by exact hs) (by exact ht) (.inl rfl) (.inl rfl)).mpr
    ⟨forget_setStage hforget _, congrArg rleEnc hM, hidx⟩⟩

theorem entropy_sameLive (hS : s.stage = .entropy) (hT : t.stage = .entropy) :
    SameLive (exec .entropy s) (exec .entropy t) := by
  obtain ⟨hforget, hR, hidx⟩ := (live_eq_iff_pairR hs ht (.inl hS) (.inl hT)).mp hst
  have hmode : s.mode = t.mode := (congrArg State.mode hforget :)
  refine ⟨_, _, exec_entropy s, exec_entropy t, (live_eq_iff_pend (by exact hs) (by exact ht) (.inl rfl) (.inl rfl)).mpr
    ⟨forget_setStage hforget _, ?_⟩⟩
  change frameBytes s.mode s.pidx _ _ = frameBytes t.mode t.pidx _ _
  rw [frameBytes_liveIndex s, frameBytes_liveIndex t, hmode, hidx, hR]

theorem pushPending_sameLive (hS : s.stage = .framed ∨ s.stage = .join) (hT : t.stage = .framed ∨ t.stage = .join) :
    s.pushPending.live = t.pushPending.live := by
  obtain ⟨hforget, hpend⟩ := (live_eq_iff_pend hs ht hS hT).mp hst
  have hroom : s.outRoom = t.outRoom := (congrArg State.outRoom hforget :)
  rw [State.pushPending, State.pushPending, ← hpend, ← hroom]
  cases s.pend with
  | nil => exact State.NoneLive.live_congr (.inl rfl) (congrArg State.commitBlock hforget :)
  | cons b rest =>
    cases s.outRoom with
    | false => exact hst
    | true =>
      exact (live_eq_iff_pend (by exact hs) (by exact ht) (by exact hS) (by exact hT)).mpr
        ⟨(congrArg (State.outPush b) hforget :), rfl⟩

theorem entropyInv_sameLive (hS : s.stage = .entropyInv) (hT : t.stage = .entropyInv) :
    SameLive (exec .entropyInv s) (exec .entropyInv t) := by
  obtain ⟨hforget, htab, hpay, hidx⟩ := (live_eq_iff_entropyInv hs ht hS hT).mp hst
  have hcap : capR s.cfg s.mode = capR t.cfg t.mode := (congrArg (fun u : State => capR u.cfg u.mode) hforget :)
  cases hc : tabParse s.tab with
  | error k =>
    rw [exec_entropyInv_of_no_table hc, exec_entropyInv_of_no_table (htab ▸ hc)]
    exact ⟨_, _, rfl, rfl, raise_sameLive hforget k _⟩
  | ok c =>
    rw [exec_entropyInv_of_table hc, exec_entropyInv_of_table (htab ▸ hc)]
    cases hR : hufDec c (capR s.cfg s.mode) s.pay with
    | ok R =>
      rw [applyHufDec_of_ok (by exact hR), applyHufDec_of_ok (by rw [hcap, hpay] at hR; exact hR)]
      exact ⟨_, _, rfl, rfl, (live_eq_iff_pairR (by exact hs) (by exact ht) (.inr rfl) (.inr rfl)).mpr
          ⟨forget_setStage hforget _, rfl, hidx⟩⟩
    | error k =>
      rw [applyHufDec_of_error (by exact hR), applyHufDec_of_error (by rw [hcap, hpay] at hR; exact hR)]
      exact ⟨_, _, rfl, rfl, raise_sameLive hforget k _⟩

theorem rleInv_sameLive (hS : s.stage = .rleInv) (hT : t.stage = .rleInv) : SameLive (exec .rleInv s) (exec .rleInv t) := by
  obtain ⟨hforget, hR, hidx⟩ := (live_eq_iff_pairR hs ht (.inr hS) (.inr hT)).mp hst
  have hcap : capL s.cfg s.mode = capL t.cfg t.mode := (congrArg (fun u : State => capL u.cfg u.mode) hforget :)
  rw [exec_rleInv, exec_rleInv]
  cases hM : rleDec (capL s.cfg s.mode) s.pairR with
  | ok M =>
    rw [applyRleDec_of_ok hM, applyRleDec_of_ok (by rw [← hcap, ← hR]; exact hM)]
    exact ⟨_, _, rfl, rfl, (live_eq_iff_rankM (by exact hs) (by exact ht) (.inr rfl) (.inr rfl)).mpr
        ⟨forget_setStage hforget _, rfl, hidx⟩⟩
  | error k =>
    rw [applyRleDec_of_error hM, applyRleDec_of_error (by rw [← hcap, ← hR]; exact hM)]
    exact ⟨_, _, rfl, rfl, raise_sameLive hforget k _⟩

theorem mtfInv_sameLive (hS : s.stage = .mtfInv) (hT : t.stage = .mtfInv) : SameLive (exec .mtfInv s) (exec .mtfInv t) := by
  obtain ⟨hforget, hM, hidx⟩ := (live_eq_iff_rankM hs ht (.inr hS) (.inr hT)).mp hst
  refine ⟨_, _, exec_mtfInv s, exec_mtfInv t, (live_eq_iff_colL (by exact hs) (by exact ht) (.inr rfl) (.inr rfl)).mpr
    ⟨forget_setStage hforget _, ?_, hidx⟩⟩
  exact congrArg (fun M => (mtfDec M).1) hM

/-- Whatever function BWT_INV applies, its outcome is read off the column and the live index. -/
theorem bwtInv_sameLive (hS : s.stage = .bwtInv) (hT : t.stage = .bwtInv) : SameLive (exec .bwtInv s) (exec .bwtInv t) := by
  obtain ⟨hforget, hL, hidx⟩ := (live_eq_iff_colL hs ht (.inr hS) (.inr hT)).mp hst
  have hmode : s.mode = t.mode := (congrArg State.mode hforget :)
  have join_live (B : List Byte) : ((State.queueBlock { s with blk := B }).setStage .join).live =
      ((State.queueBlock { t with blk := B }).setStage .join).live :=
    (live_eq_iff_pend (by exact hs) (by exact ht) (.inr rfl) (.inr rfl)).mpr ⟨forget_setStage hforget _, rfl⟩
  cases hm : s.mode with
  | explicitIndex =>
    have hm' : t.mode = .explicitIndex := hmode ▸ hm
    rw [liveIndex_explicitIndex hm, liveIndex_explicitIndex hm'] at hidx
    cases hB : bwtInvExplicit s.colL s.pidx.toNat with
    | ok B =>
      have hB' : bwtInvExplicit t.colL t.pidx.toNat = .ok B := by rw [← hL, ← hidx, hB]
      exact ⟨_, _, exec_bwtInv_of_ok (.inl ⟨hm, applyBwtInvExplicit_of_ok hB⟩),
        exec_bwtInv_of_ok (.inl ⟨hm', applyBwtInvExplicit_of_ok hB'⟩), join_live B⟩
    | error k =>
      have hB' : bwtInvExplicit t.colL t.pidx.toNat = .error k := by rw [← hL, ← hidx, hB]
      exact ⟨_, _, exec_bwtInv_of_error (.inl ⟨hm, applyBwtInvExplicit_of_error hB⟩),
        exec_bwtInv_of_error (.inl ⟨hm', applyBwtInvExplicit_of_error hB'⟩), raise_sameLive hforget k _⟩
  | sentinel =>
    have hm' : t.mode = .sentinel := hmode ▸ hm
    cases hB : bwtInvSentinel s.colL with
    | ok B =>
      have hB' : bwtInvSentinel t.colL = .ok B := by rw [← hL, hB]
      exact ⟨_, _, exec_bwtInv_of_ok (.inr ⟨hm, applyBwtInvSentinel_of_ok hB⟩),
        exec_bwtInv_of_ok (.inr ⟨hm', applyBwtInvSentinel_of_ok hB'⟩), join_live B⟩
    | error k =>
      have hB' : bwtInvSentinel t.colL = .error k := by rw [← hL, hB]
      exact ⟨_, _, exec_bwtInv_of_error (.inr ⟨hm, applyBwtInvSentinel_of_error hB⟩),
        exec_bwtInv_of_error (.inr ⟨hm', applyBwtInvSentinel_of_error hB'⟩), raise_sameLive hforget k _⟩

omit hs ht in
theorem drainStep_sameLive (hS : s.stage = .drain) : s.drainStep.live = t.drainStep.live := by
  have hforget := forget_eq_of_live_eq hst
  have hin : s.inFifo = t.inFifo := (congrArg State.inFifo hforget :)
  have hrem : s.rem = t.rem := (congrArg State.rem hforget :)
  rw [State.drainStep, State.drainStep, State.inPop, State.inPop, ← hin, ← hrem]
  split
  · exact State.NoneLive.live_congr (.inr (.inl rfl)) (congrArg State.endDrain hforget :)
  · cases s.inFifo with
    | nil => exact hst
    | cons b rest => exact State.NoneLive.live_congr (.inr (.inr hS)) (forget_popped hforget rest)

end Stages

theorem liveIndex_congr {s t : State} (hmode : s.mode = t.mode) (hidx : s.pidx = t.pidx) : s.liveIndex = t.liveIndex := by
  rw [State.liveIndex, State.liveIndex, hmode, hidx]

section Unframe

variable {s t : State} (hs : s.boundary = false) (ht : t.boundary = false) (hS : s.stage = .unframe)
  (hT : t.stage = .unframe)

include hs ht hS hT

theorem checkFour_sameLive (f : FrameField) (hforget : s.forget = t.forget)
    (hframe : SameFrame { s with field := f, need := 4, fbuf := [] } { t with field := f, need := 4, fbuf := [] }) :
    (s.checkFour f).live = (t.checkFour f).live := by
  have hrem : s.rem = t.rem := (congrArg State.rem hforget :)
  by_cases h : s.rem < 4
  · rw [checkFour_fail h, checkFour_fail (hrem ▸ h)]
    exact raise_sameLive hforget _ _
  · rw [checkFour_pass (not_lt.mp h), checkFour_pass (hrem ▸ not_lt.mp h)]
    exact (live_eq_iff_unframe (by exact hs) (by exact ht) (by exact hS) (by exact hT)).mpr ⟨hforget, hframe⟩

/-! One byte of a field, when both states have the same bytes to come. -/

theorem takeFieldByte_sameLive (hf : s.field.isNumber) (hforget : s.forget = t.forget) (hframe : SameFrame s t) :
    s.takeFieldByte.live = t.takeFieldByte.live := by
  have hin : s.inFifo = t.inFifo := (congrArg State.inFifo hforget :)
  cases hfifo : s.inFifo with
  | nil =>
    rw [takeFieldByte_nil hfifo, takeFieldByte_nil (hin ▸ hfifo)]
    exact (live_eq_iff_unframe hs ht hS hT).mpr ⟨hforget, hframe⟩
  | cons b rest =>
    rw [takeFieldByte_cons hfifo, takeFieldByte_cons (hin ▸ hfifo)]
    obtain ⟨hfield, h⟩ := hframe
    refine (live_eq_iff_unframe (by exact hs) (by exact ht) (by exact hS) (by exact hT)).mpr
      ⟨forget_popped hforget rest, hfield, ?_⟩
    change AgreeAt s.field _ _
    obtain hf | hf | hf := hf <;> rw [hf] at h ⊢
    · obtain ⟨hneed, hbuf⟩ := h
      exact ⟨congrArg (· - 1) hneed, congrArg (· ++ [b]) hbuf⟩
    · obtain ⟨hidx, hneed, hbuf⟩ := h
      exact ⟨hidx, congrArg (· - 1) hneed, congrArg (· ++ [b]) hbuf⟩
    · obtain ⟨hidx, htab, hneed, hbuf⟩ := h
      exact ⟨hidx, htab, congrArg (· - 1) hneed, congrArg (· ++ [b]) hbuf⟩

theorem takeTabByte_sameLive (hf : s.field = .tab) (hforget : s.forget = t.forget) (hframe : SameFrame s t) :
    s.takeTabByte.live = t.takeTabByte.live := by
  have hin : s.inFifo = t.inFifo := (congrArg State.inFifo hforget :)
  cases hfifo : s.inFifo with
  | nil =>
    rw [takeTabByte_nil hfifo, takeTabByte_nil (hin ▸ hfifo)]
    exact (live_eq_iff_unframe hs ht hS hT).mpr ⟨hforget, hframe⟩
  | cons b rest =>
    rw [takeTabByte_cons hfifo, takeTabByte_cons (hin ▸ hfifo)]
    obtain ⟨hfield, h⟩ := hframe
    rw [hf] at h
    obtain ⟨hidx, hneed, htab⟩ := h
    exact (live_eq_iff_unframe (by exact hs) (by exact ht) (by exact hS) (by exact hT)).mpr
      ⟨forget_popped hforget rest, .intro hf (hfield ▸ hf)
        ⟨hidx, congrArg (· - 1) hneed, congrArg (· ++ [b]) htab⟩⟩

theorem takePayByte_sameLive (hf : s.field = .pay) (hforget : s.forget = t.forget) (hframe : SameFrame s t) :
    s.takePayByte.live = t.takePayByte.live := by
  have hin : s.inFifo = t.inFifo := (congrArg State.inFifo hforget :)
  cases hfifo : s.inFifo with
  | nil =>
    rw [takePayByte_nil hfifo, takePayByte_nil (hin ▸ hfifo)]
    exact (live_eq_iff_unframe hs ht hS hT).mpr ⟨hforget, hframe⟩
  | cons b rest =>
    rw [takePayByte_cons hfifo, takePayByte_cons (hin ▸ hfifo)]
    obtain ⟨hfield, h⟩ := hframe
    rw [hf] at h
    obtain ⟨hidx, htab, hneed, hpay⟩ := h
    exact (live_eq_iff_unframe (by exact hs) (by exact ht) (by exact hS) (by exact hT)).mpr
      ⟨forget_popped hforget rest, .intro hf (hfield ▸ hf)
        ⟨hidx, htab, congrArg (· - 1) hneed, congrArg (· ++ [b]) hpay⟩⟩

/-! The checks of the two lengths. -/

theorem checkTabLen_sameLive (hforget : s.forget = t.forget) (hidx : s.liveIndex = t.liveIndex) (hbuf : s.fbuf = t.fbuf) :
    s.checkTabLen.live = t.checkTabLen.live := by
  have hrem : s.rem = t.rem := (congrArg State.rem hforget :)
  by_cases hle : ofBE s.fbuf ≤ s.rem
  · have hle' : ofBE t.fbuf ≤ t.rem := by rwa [← hbuf, ← hrem]
    by_cases hmax : ofBE s.fbuf ≤ maxTableBytes
    · rw [checkTabLen_pass hle hmax, checkTabLen_pass hle' (hbuf ▸ hmax)]
      exact (live_eq_iff_unframe (by exact hs) (by exact ht) (by exact hS) (by exact hT)).mpr
        ⟨hforget, rfl, hidx, congrArg ofBE hbuf, rfl⟩
    · rw [checkTabLen_tooLong hle (not_le.mp hmax), checkTabLen_tooLong hle' (hbuf ▸ not_le.mp hmax)]
      exact raise_sameLive hforget _ _
  · have hlt' : t.rem < ofBE t.fbuf := by rw [← hbuf, ← hrem]; exact not_le.mp hle
    rw [checkTabLen_truncated (not_le.mp hle), checkTabLen_truncated hlt']
    exact raise_sameLive hforget _ _

theorem checkPayLen_sameLive (hforget : s.forget = t.forget) (hidx : s.liveIndex = t.liveIndex) (htab : s.tab = t.tab)
    (hbuf : s.fbuf = t.fbuf) : s.checkPayLen.live = t.checkPayLen.live := by
  have hrem : s.rem = t.rem := (congrArg State.rem hforget :)
  by_cases h : s.rem < ofBE s.fbuf ∨ ofBE s.fbuf = 0
  · rw [checkPayLen_fail h, checkPayLen_fail (by rwa [← hbuf, ← hrem])]
    exact raise_sameLive hforget _ _
  · obtain ⟨hle, hpos⟩ := not_or.mp h
    rw [checkPayLen_pass (not_lt.mp hle) hpos, checkPayLen_pass (by rw [← hbuf, ← hrem]; exact not_lt.mp hle) (hbuf ▸ hpos)]
    exact (live_eq_iff_unframe (by exact hs) (by exact ht) (by exact hS) (by exact hT)).mpr
      ⟨hforget, rfl, hidx, htab, congrArg ofBE hbuf, rfl⟩

/-- The step of UNFRAME reads what the field it stands at has. -/
theorem unframeStep_sameLive (hst : s.live = t.live) : s.unframeStep.live = t.unframeStep.live := by
  obtain ⟨hforget, hframe⟩ := (live_eq_iff_unframe hs ht hS hT).mp hst
  obtain ⟨hfield, h⟩ := id hframe
  cases hf : s.field <;> have hf' := hfield ▸ hf <;> rw [hf] at h
  case idxCheck =>
    rw [unframeStep_idxCheck hf, unframeStep_idxCheck hf']
    exact checkFour_sameLive hs ht hS hT _ hforget ⟨rfl, rfl, rfl⟩
  case tabLenCheck =>
    rw [unframeStep_tabLenCheck hf, unframeStep_tabLenCheck hf']
    exact checkFour_sameLive hs ht hS hT _ hforget ⟨rfl, h, rfl, rfl⟩
  case payLenCheck =>
    rw [unframeStep_payLenCheck hf, unframeStep_payLenCheck hf']
    exact checkFour_sameLive hs ht hS hT _ hforget ⟨rfl, h.1, h.2, rfl, rfl⟩
  case idx =>
    obtain ⟨hneed, hbuf⟩ := h
    by_cases hn : s.need = 0
    · rw [unframeStep_idx_read hf hn, unframeStep_idx_read hf' (hneed ▸ hn)]
      exact (live_eq_iff_unframe (by exact hs) (by exact ht) (by exact hS) (by exact hT)).mpr
        ⟨hforget, rfl, liveIndex_congr (congrArg State.mode hforget :) (congrArg (fun b => BitVec.ofNat 32 (ofBE b)) hbuf)⟩
    · rw [unframeStep_number (.inl hf) hn, unframeStep_number (.inl hf') (hneed ▸ hn)]
      exact takeFieldByte_sameLive hs ht hS hT (.inl hf) hforget hframe
  case tabLen =>
    obtain ⟨hidx, hneed, hbuf⟩ := h
    by_cases hn : s.need = 0
    · rw [unframeStep_tabLen_read hf hn, unframeStep_tabLen_read hf' (hneed ▸ hn)]
      exact checkTabLen_sameLive hs ht hS hT hforget hidx hbuf
    · rw [unframeStep_number (.inr (.inl hf)) hn, unframeStep_number (.inr (.inl hf')) (hneed ▸ hn)]
      exact takeFieldByte_sameLive hs ht hS hT (.inr (.inl hf)) hforget hframe
  case tab =>
    obtain ⟨hidx, hneed, htab⟩ := h
    by_cases hn : s.need = 0
    · rw [unframeStep_tab_read hf hn, unframeStep_tab_read hf' (hneed ▸ hn)]
      exact (live_eq_iff_unframe (by exact hs) (by exact ht) (by exact hS) (by exact hT)).mpr ⟨hforget, rfl, hidx, htab⟩
    · rw [unframeStep_tab hf hn, unframeStep_tab hf' (hneed ▸ hn)]
      exact takeTabByte_sameLive hs ht hS hT hf hforget hframe
  case payLen =>
    obtain ⟨hidx, htab, hneed, hbuf⟩ := h
    by_cases hn : s.need = 0
    · rw [unframeStep_payLen_read hf hn, unframeStep_payLen_read hf' (hneed ▸ hn)]
      exact checkPayLen_sameLive hs ht hS hT hforget hidx htab hbuf
    · rw [unframeStep_number (.inr (.inr hf)) hn, unframeStep_number (.inr (.inr hf')) (hneed ▸ hn)]
      exact takeFieldByte_sameLive hs ht hS hT (.inr (.inr hf)) hforget hframe
  case pay =>
    obtain ⟨hidx, htab, hneed, hpay⟩ := h
    by_cases hn : s.need = 0
    · rw [unframeStep_pay_read hf hn, unframeStep_pay_read hf' (hneed ▸ hn)]
      exact (live_eq_iff_entropyInv (by exact hs) (by exact ht) rfl rfl).mpr
        ⟨forget_setStage hforget _, htab, hpay, hidx⟩
    · rw [unframeStep_pay hf hn, unframeStep_pay hf' (hneed ▸ hn)]
      exact takePayByte_sameLive hs ht hS hT hf hforget hframe

end Unframe

/-! ### Every turn -/

/-- A step of the stage both states are in. -/
theorem exec_stage_sameLive {s t : State} (hs : s.boundary = false) (hst : s.live = t.live) :
    SameLive (exec s.stage.instr s) (exec t.stage.instr t) := by
  have hforget := forget_eq_of_live_eq hst
  have hstage : s.stage = t.stage := (congrArg State.stage hforget :)
  have ht : t.boundary = false := ((congrArg State.boundary hforget :) : s.boundary = t.boundary) ▸ hs
  rw [← hstage]
  cases hS : s.stage with
  | idle => exact ⟨s, t, rfl, rfl, hst⟩
  | split => exact split_sameLive hs ht hst hS (hstage ▸ hS)
  | bwt => exact bwt_sameLive hs ht hst hS (hstage ▸ hS)
  | mtf => exact mtf_sameLive hs ht hst hS (hstage ▸ hS)
  | rle => exact rle_sameLive hs ht hst hS (hstage ▸ hS)
  | entropy => exact entropy_sameLive hs ht hst hS (hstage ▸ hS)
  | framed => exact ⟨_, _, rfl, rfl, pushPending_sameLive hs ht hst (.inl hS) (.inl (hstage ▸ hS))⟩
  | unframe => exact ⟨_, _, rfl, rfl, unframeStep_sameLive hs ht hS (hstage ▸ hS) hst⟩
  | entropyInv => exact entropyInv_sameLive hs ht hst hS (hstage ▸ hS)
  | rleInv => exact rleInv_sameLive hs ht hst hS (hstage ▸ hS)
  | mtfInv => exact mtfInv_sameLive hs ht hst hS (hstage ▸ hS)
  | bwtInv => exact bwtInv_sameLive hs ht hst hS (hstage ▸ hS)
  | join => exact ⟨_, _, rfl, rfl, pushPending_sameLive hs ht hst (.inr hS) (.inr (hstage ▸ hS))⟩
  | drain => exact ⟨_, _, rfl, rfl, drainStep_sameLive hst hS⟩

theorem engineTurn_sameLive {s t : State} (hst : s.live = t.live) : SameLive (engineTurn s) (engineTurn t) := by
  have hforget := forget_eq_of_live_eq hst
  have hbusy : s.busy = t.busy := (congrArg State.busy hforget :)
  have hboundary : s.boundary = t.boundary := (congrArg State.boundary hforget :)
  cases hb : s.busy with
  | false =>
    rw [engineTurn_idle s hb, engineTurn_idle t (hbusy ▸ hb)]
    exact ⟨s, t, rfl, rfl, hst⟩
  | true =>
    cases hbound : s.boundary with
    | true =>
      rw [engineTurn_boundary s hb hbound, engineTurn_boundary t (hbusy ▸ hb) (hboundary ▸ hbound)]
      exact ⟨_, _, rfl, rfl, boundaryStep_live hforget⟩
    | false =>
      rw [engineTurn_stage s hb hbound, engineTurn_stage t (hbusy ▸ hb) (hboundary ▸ hbound)]
      exact exec_stage_sameLive hbound hst

theorem setSched_sameLive {s t : State} (hst : s.live = t.live) (l : List Turn) :
    (s.setSched l).live = (t.setSched l).live :=
  live_eq_of_hostSide hst rfl rfl (congrArg (State.setSched l) (forget_eq_of_live_eq hst) :)

theorem step_sameLive {s t : State} (hst : s.live = t.live) : SameLive (step s) (step t) := by
  have hsched : s.sched = t.sched := (congrArg State.sched (forget_eq_of_live_eq hst) :)
  rw [step, step, ← hsched]
  cases s.sched with
  | nil => exact engineTurn_sameLive hst
  | cons turn rest =>
    cases turn with
    | engine => exact engineTurn_sameLive (setSched_sameLive hst rest)
    | host h => exact hostTurn_sameLive h (setSched_sameLive hst rest)

/-- Settles O54: the steps have one live part, and the answer, IRQ and the registers are none of the buffers. -/
theorem deadBuffersAreUnobservable : Obligations.DeadBuffersAreUnobservable := by
  intro s t hst
  obtain ⟨s', t', hs, ht, hlive⟩ := step_sameLive hst
  have hforget := forget_eq_of_live_eq hlive
  exact ⟨s', t', hs, ht, hlive, (congrArg State.resp hforget :), (congrArg State.irq hforget :), readReg_congr hforget⟩

end Sys2Proof.Machine
end

section
/-! PROOF. CTRL, BLOCK_SIZE and IN_LEN do not reach the engine (70_reset_and_hazards.md R191): a command works from its
latches, and each step of the engine commutes with a change of the three registers. -/

namespace Sys2Proof.Machine

/-- The state with the three registers the host configures a command by. -/
def State.configured (c b n : Word) (s : State) : State := { s with ctrl := c, blockSize := b, inLen := n }

/-- The outcome `a'` is the outcome `a`, with `f` applied to its state. -/
def CarriedBy (f : State → State) (a a' : Result) : Prop := ∃ t, a = .next t ∧ a' = .next (f t)

section Configured

variable (c b n : Word) (s : State)

/-! ### The transform stages -/

theorem settle_configured (S : Stage) {r r' : Except ErrKind State} (h : r' = r.map (State.configured c b n)) :
    CarriedBy (State.configured c b n) (s.settle S r) ((s.configured c b n).settle S r') := by
  subst h
  cases r with
  | ok t => exact ⟨t, rfl, rfl⟩
  | error k => exact ⟨s.raise k S, rfl, rfl⟩

theorem settle_moveTo_configured (S S' : Stage) {r r' : Except ErrKind State} (h : r' = r.map (State.configured c b n)) :
    CarriedBy (State.configured c b n) (s.settle S (moveTo S' r)) ((s.configured c b n).settle S (moveTo S' r')) := by
  refine settle_configured c b n s S ?_
  subst h
  cases r <;> rfl

theorem applyBwtFwdSentinel_configured :
    (s.configured c b n).applyBwtFwdSentinel = s.applyBwtFwdSentinel.map (State.configured c b n) := by
  unfold State.applyBwtFwdSentinel
  have hblk : (s.configured c b n).blk = s.blk := rfl
  rw [hblk]
  cases bwtFwdSentinel s.blk <;> rfl

theorem applyBwtInvSentinel_configured :
    (s.configured c b n).applyBwtInvSentinel = s.applyBwtInvSentinel.map (State.configured c b n) := by
  unfold State.applyBwtInvSentinel
  have hcol : (s.configured c b n).colL = s.colL := rfl
  rw [hcol]
  cases bwtInvSentinel s.colL <;> rfl

theorem applyBwtInvExplicit_configured :
    (s.configured c b n).applyBwtInvExplicit = s.applyBwtInvExplicit.map (State.configured c b n) := by
  unfold State.applyBwtInvExplicit
  have hcol : (s.configured c b n).colL = s.colL := rfl
  have hidx : (s.configured c b n).pidx = s.pidx := rfl
  rw [hcol, hidx]
  cases bwtInvExplicit s.colL s.pidx.toNat <;> rfl

theorem applyRleDec_configured : (s.configured c b n).applyRleDec = s.applyRleDec.map (State.configured c b n) := by
  have hdec : rleDec (capL (s.configured c b n).cfg (s.configured c b n).mode) (s.configured c b n).pairR =
    rleDec (capL s.cfg s.mode) s.pairR := rfl
  unfold State.applyRleDec
  rw [hdec]
  cases rleDec (capL s.cfg s.mode) s.pairR <;> rfl

theorem applyHufDec_configured : (s.configured c b n).applyHufDec = s.applyHufDec.map (State.configured c b n) := by
  have hdec : hufDec (s.configured c b n).codes (capR (s.configured c b n).cfg (s.configured c b n).mode)
    (s.configured c b n).pay = hufDec s.codes (capR s.cfg s.mode) s.pay := rfl
  unfold State.applyHufDec
  rw [hdec]
  cases hufDec s.codes (capR s.cfg s.mode) s.pay <;> rfl

theorem exec_bwt_configured : CarriedBy (State.configured c b n) (exec .bwt s) (exec .bwt (s.configured c b n)) := by
  cases hmode : s.mode with
  | explicitIndex =>
    rw [exec_bwt_explicitIndex hmode, exec_bwt_explicitIndex (by exact hmode)]
    exact settle_moveTo_configured c b n s .bwt .mtf rfl
  | sentinel =>
    rw [exec_bwt_sentinel hmode, exec_bwt_sentinel (by exact hmode)]
    exact settle_moveTo_configured c b n s .bwt .mtf (applyBwtFwdSentinel_configured c b n s)

theorem exec_entropyInv_configured :
    CarriedBy (State.configured c b n) (exec .entropyInv s) (exec .entropyInv (s.configured c b n)) := by
  cases htab : tabParse s.tab with
  | ok codes =>
    rw [exec_entropyInv_of_table htab, exec_entropyInv_of_table (by exact htab)]
    exact settle_moveTo_configured c b n { s with codes := codes } .entropyInv .rleInv
      (applyHufDec_configured c b n { s with codes := codes })
  | error k =>
    rw [exec_entropyInv_of_no_table htab, exec_entropyInv_of_no_table (by exact htab)]
    exact ⟨_, rfl, rfl⟩

theorem map_queueBlock_configured (r : Except ErrKind State) :
    (r.map (State.configured c b n)).map State.queueBlock = (r.map State.queueBlock).map (State.configured c b n) := by
  cases r <;> rfl

theorem exec_bwtInv_configured :
    CarriedBy (State.configured c b n) (exec .bwtInv s) (exec .bwtInv (s.configured c b n)) := by
  have hmode : (s.configured c b n).mode = s.mode := rfl
  rw [exec_bwtInv_eq, exec_bwtInv_eq, hmode]
  refine settle_moveTo_configured c b n s .bwtInv .join ?_
  rw [← map_queueBlock_configured, applyBwtInvExplicit_configured, applyBwtInvSentinel_configured]
  split <;> rfl

/-! ### The stages that move bytes -/

theorem inPop_configured :
    (s.configured c b n).inPop = s.inPop.map (Prod.map id (State.configured c b n)) := by
  have hin : (s.configured c b n).inFifo = s.inFifo := rfl
  cases h : s.inFifo with
  | nil => rw [State.inPop_nil h, State.inPop_nil (hin.trans h)]; rfl
  | cons x rest => rw [State.inPop_cons h, State.inPop_cons (hin.trans h)]; rfl

theorem ite_configured {p : Prop} [Decidable p] {t u t' u' : State} (ht : t' = t.configured c b n)
    (hu : u' = u.configured c b n) : (if p then t' else u') = (if p then t else u).configured c b n := by
  split
  · exact ht
  · exact hu

theorem boundaryStep_configured : (s.configured c b n).boundaryStep = s.boundaryStep.configured c b n := by
  refine ite_configured c b n rfl ?_
  have hop : (s.configured c b n).op = s.op := rfl
  rw [hop]
  cases s.op <;> rfl

theorem exec_split_configured : CarriedBy (State.configured c b n) (exec .split s) (exec .split (s.configured c b n)) := by
  have hin : (s.configured c b n).inFifo = s.inFifo := rfl
  by_cases hmore : s.blk.length < s.latBs.toNat ∧ 0 < s.rem
  · cases h : s.inFifo with
    | nil => exact ⟨_, exec_split_hold hmore h, exec_split_hold hmore (hin.trans h)⟩
    | cons x rest => exact ⟨_, exec_split_take hmore h, exec_split_take hmore (hin.trans h)⟩
  · exact ⟨_, exec_split_full hmore, exec_split_full hmore⟩

theorem pushPending_configured : (s.configured c b n).pushPending = s.pushPending.configured c b n := by
  have hpend : (s.configured c b n).pend = s.pend := rfl
  unfold State.pushPending
  rw [hpend]
  cases s.pend with
  | nil => rfl
  | cons x rest => exact ite_configured c b n rfl rfl

theorem drainStep_configured : (s.configured c b n).drainStep = s.drainStep.configured c b n := by
  refine ite_configured c b n rfl ?_
  rw [inPop_configured]
  cases s.inPop <;> rfl

theorem takeFieldByte_configured : (s.configured c b n).takeFieldByte = s.takeFieldByte.configured c b n := by
  unfold State.takeFieldByte
  rw [inPop_configured]
  cases s.inPop <;> rfl

theorem takeTabByte_configured : (s.configured c b n).takeTabByte = s.takeTabByte.configured c b n := by
  unfold State.takeTabByte
  rw [inPop_configured]
  cases s.inPop <;> rfl

theorem takePayByte_configured : (s.configured c b n).takePayByte = s.takePayByte.configured c b n := by
  unfold State.takePayByte
  rw [inPop_configured]
  cases s.inPop <;> rfl

theorem unframeStep_configured : (s.configured c b n).unframeStep = s.unframeStep.configured c b n := by
  have hfield : (s.configured c b n).field = s.field := rfl
  unfold State.unframeStep
  rw [hfield]
  cases s.field with
  | idxCheck | tabLenCheck | payLenCheck => exact ite_configured c b n rfl rfl
  | idx => exact ite_configured c b n rfl (takeFieldByte_configured c b n s)
  | tabLen =>
    exact ite_configured c b n (ite_configured c b n rfl (ite_configured c b n rfl rfl)) (takeFieldByte_configured c b n s)
  | tab => exact ite_configured c b n rfl (takeTabByte_configured c b n s)
  | payLen =>
    exact ite_configured c b n (ite_configured c b n rfl (ite_configured c b n rfl rfl)) (takeFieldByte_configured c b n s)
  | pay => exact ite_configured c b n rfl (takePayByte_configured c b n s)

/-! ### The engine's turn -/

theorem exec_stage_configured (S : Stage) :
    CarriedBy (State.configured c b n) (exec S.instr s) (exec S.instr (s.configured c b n)) := by
  cases S with
  | idle => exact ⟨s, rfl, rfl⟩
  | split => exact exec_split_configured c b n s
  | bwt => exact exec_bwt_configured c b n s
  | mtf => exact settle_moveTo_configured c b n s .mtf .rle (r := s.applyMtfEnc) rfl
  | rle => exact settle_moveTo_configured c b n s .rle .entropy (r := s.applyRleEnc) rfl
  | entropy => exact ⟨_, exec_entropy s, exec_entropy (s.configured c b n)⟩
  | framed | join => exact ⟨_, rfl, congrArg _ (pushPending_configured c b n s)⟩
  | unframe => exact ⟨_, rfl, congrArg _ (unframeStep_configured c b n s)⟩
  | entropyInv => exact exec_entropyInv_configured c b n s
  | rleInv => exact settle_moveTo_configured c b n s .rleInv .mtfInv (applyRleDec_configured c b n s)
  | mtfInv => exact settle_moveTo_configured c b n s .mtfInv .bwtInv (r := s.applyMtfDec) rfl
  | bwtInv => exact exec_bwtInv_configured c b n s
  | drain => exact ⟨_, rfl, congrArg _ (drainStep_configured c b n s)⟩

theorem engineTurn_configured :
    CarriedBy (State.configured c b n) (engineTurn s) (engineTurn (s.configured c b n)) := by
  cases hbusy : s.busy with
  | false => exact ⟨s, engineTurn_idle s hbusy, engineTurn_idle _ hbusy⟩
  | true =>
    cases hbound : s.boundary with
    | true =>
      rw [engineTurn_boundary s hbusy hbound, engineTurn_boundary (s.configured c b n) hbusy hbound]
      exact ⟨_, rfl, congrArg _ (boundaryStep_configured c b n s)⟩
    | false =>
      rw [engineTurn_stage s hbusy hbound, engineTurn_stage (s.configured c b n) hbusy hbound]
      exact exec_stage_configured c b n s s.stage

end Configured

/-- Settles O55: the turn is the engine's in both states, and it commutes with the change of the registers. -/
theorem hostConfigurationDoesNotReachTheRunningCommand :
    Obligations.HostConfigurationDoesNotReachTheRunningCommand := by
  intro s u t c b n hnext hstep
  have hnext' : (s.configured c b n).EngineNext (u.configured c b n) := by
    obtain ⟨h, rfl⟩ | ⟨rest, h, rfl⟩ := hnext
    · exact .inl ⟨h, rfl⟩
    · exact .inr ⟨rest, h, rfl⟩
  obtain ⟨t', ht', hconf⟩ := engineTurn_configured c b n u
  obtain rfl : t' = t := Host.Outcome.next.inj (by rw [← ht', ← step_of_engineNext hnext, hstep])
  exact (step_of_engineNext hnext').trans hconf

end Sys2Proof.Machine
end

section
/-! PROOF. What the inverse functions give on any data, and on which they fail (60_exceptions.md R170): the runs of a pair
stream (42_rle.md R115) and the bytes on the LF walk of a column (40_bwt.md R103, R104). -/

namespace Sys2Proof.Machine

/-! ### Pair streams -/

theorem capL_eq (c : Config) (m : Mode) : capL c m = c.maxBlockSize + if m = .sentinel then 1 else 0 := by
  cases m <;> rfl

theorem capR_eq (c : Config) (m : Mode) : capR c m = 2 * (c.maxBlockSize + if m = .sentinel then 1 else 0) := by
  rw [capR, capL_eq]

theorem rleCodes_pairStream {ps : List (Byte × Byte)} (h : ∀ p ∈ ps, p.1 ≠ 0) :
    RleCodes (pairStream ps) (ps.flatMap fun p => List.replicate p.1.toNat p.2) := by
  induction ps with
  | nil => exact .nil
  | cons p ps ih =>
    exact .pair p.2 (h p List.mem_cons_self) (ih fun q hq => h q (List.mem_cons_of_mem p hq))

theorem length_flatMap_replicate (ps : List (Byte × Byte)) :
    (ps.flatMap fun p => List.replicate p.1.toNat p.2).length = (ps.map fun p => p.1.toNat).sum := by
  simp [List.length_flatMap]

theorem rleDec_pairStream {ps : List (Byte × Byte)} {cap : Nat} (h : ∀ p ∈ ps, p.1 ≠ 0)
    (hcap : (ps.map fun p => p.1.toNat).sum ≤ cap) :
    rleDec cap (pairStream ps) = .ok (ps.flatMap fun p => List.replicate p.1.toNat p.2) :=
  (rleCodes_pairStream h).rleDec_eq (by rwa [length_flatMap_replicate])

/-- A count of 0, or more bytes than fit, stops the pair loop (42_rle.md R115). -/
theorem rleDecFrom_error {ps : List (Byte × Byte)} {cap n : Nat} (hn : n ≤ cap)
    (h : (∃ p ∈ ps, p.1 = 0) ∨ cap < n + (ps.map fun p => p.1.toNat).sum) :
    rleDecFrom cap n (pairStream ps) = .error .corruptBlock := by
  induction ps generalizing n with
  | nil => simp at h; omega
  | cons p ps ih =>
    rw [pairStream_cons, rleDecFrom]
    by_cases hzero : p.1 = 0
    · rw [if_pos hzero]
    by_cases hover : n + p.1.toNat > cap
    · rw [if_neg hzero, if_pos hover]
    have hrest : (∃ q ∈ ps, q.1 = 0) ∨ cap < n + p.1.toNat + (ps.map fun q => q.1.toNat).sum := by
      obtain ⟨q, hq, hq0⟩ | hsum := h
      · obtain rfl | hq := List.mem_cons.mp hq
        · exact absurd hq0 hzero
        · exact .inl ⟨q, hq, hq0⟩
      · rw [List.map_cons, List.sum_cons] at hsum
        exact .inr (by omega)
    rw [if_neg hzero, if_neg hover, ih (by omega) hrest]

theorem rleDec_error_of_pairs {ps : List (Byte × Byte)} {cap : Nat}
    (h : (∃ p ∈ ps, p.1 = 0) ∨ cap < (ps.map fun p => p.1.toNat).sum) :
    rleDec cap (pairStream ps) = .error .corruptBlock := by
  rw [rleDec, if_neg (by rw [length_pairStream]; omega), rleDecFrom_error (Nat.zero_le cap) (by rwa [Nat.zero_add])]

theorem rleDec_odd {R : List Byte} (h : R.length % 2 = 1) (cap : Nat) : rleDec cap R = .error .truncatedInput := if_pos h

/-! ### The LF walk -/

/-- LF of a place, with the byte there (40_bwt.md R101). -/
theorem lf_eq_of_getElem? {L : List Byte} {i : Nat} {x : Byte} (h : L[i]? = some x) :
    lf L i = (L.countP fun y => y.toNat < x.toNat) + (L.take i).count x := by
  have hget : L.getD i 0 = x := by rw [List.getD_eq_getElem?_getD, h, Option.getD_some]
  rw [lf, hget, cumCount, occ]

/-- LF leads from a place of the column to a place of the column (40_bwt.md R101). -/
theorem lf_lt {L : List Byte} {i : Nat} (hi : i < L.length) : lf L i < L.length := by
  have hsplit : L = L.take i ++ L[i] :: L.drop (i + 1) := by
    rw [← List.drop_eq_getElem_cons hi, List.take_append_drop]
  have hlen : (L.take i).length = i := by rw [List.length_take]; omega
  have hlf := lf_append_cons (L.take i) (L.drop (i + 1)) L[i]
  rw [← hsplit, hlen] at hlf
  have hfront := List.countP_le_length (p := fun y : Byte => decide (y.toNat ≤ L[i].toNat)) (l := L.take i)
  have hback := List.countP_le_length (p := fun y : Byte => decide (y.toNat < L[i].toNat)) (l := L.drop (i + 1))
  rw [List.length_drop] at hback
  omega

/-- Step k of the walk emits the byte at the k-th place after its start (40_bwt.md R103). -/
theorem getElem?_walkEmitMove {L : List Byte} {n p k : Nat} (hp : p < L.length) (hk : k < n) :
    (walkEmitMove L n p)[k]? = L[(lf L)^[k] p]? := by
  induction n generalizing p k with
  | zero => omega
  | succ n ih =>
    cases k with
    | zero =>
      rw [walkEmitMove, List.getElem?_cons_zero, Function.iterate_zero_apply, List.getD_eq_getElem?_getD,
        List.getElem?_eq_getElem hp, Option.getD_some]
    | succ k => rw [walkEmitMove, List.getElem?_cons_succ, ih (lf_lt hp) (by omega), Function.iterate_succ_apply]

theorem getElem?_walkMoveEmit {L : List Byte} {n p k : Nat} (hp : p < L.length) (hk : k < n) :
    (walkMoveEmit L n p)[k]? = L[(lf L)^[k + 1] p]? := by
  rw [walkMoveEmit_eq, getElem?_walkEmitMove (lf_lt hp) hk, Function.iterate_succ_apply]

theorem length_walkMoveEmit (L : List Byte) (n p : Nat) : (walkMoveEmit L n p).length = n := by
  rw [walkMoveEmit_eq, length_walkEmitMove]

/-! ### The inverse transforms -/

theorem bwtInvExplicit_ok {L : List Byte} {p : Nat} (hp : p < L.length) :
    bwtInvExplicit L p = .ok (walkEmitMove L L.length p).reverse := by
  rw [bwtInvExplicit, if_neg (by omega), if_neg (by omega)]

theorem bwtInvExplicit_error {L : List Byte} {p : Nat} (h : L = [] ∨ L.length ≤ p) :
    bwtInvExplicit L p = .error .corruptBlock := by
  rw [bwtInvExplicit]
  by_cases hlen : L.length = 0
  · rw [if_pos hlen]
  · rw [if_neg hlen, if_pos (h.resolve_left fun hnil => hlen (List.length_eq_zero_iff.mpr hnil))]

theorem bwtInvSentinel_ok {L : List Byte} (hone : L.count 0 = 1)
    (hzero : (walkMoveEmit L (L.length - 1) (L.idxOf 0)).count 0 = 0) :
    bwtInvSentinel L = .ok (walkMoveEmit L (L.length - 1) (L.idxOf 0)).reverse := by
  have hlen : L.length ≠ 0 := by
    have := List.count_le_length (a := (0 : Byte)) (l := L)
    omega
  rw [bwtInvSentinel, if_neg hlen, if_neg (not_not.mpr hone)]
  exact if_neg (by rw [hzero]; omega)

theorem bwtInvSentinel_error {L : List Byte}
    (h : L.count 0 ≠ 1 ∨ 0 < (walkMoveEmit L (L.length - 1) (L.idxOf 0)).count 0) :
    bwtInvSentinel L = .error .corruptBlock := by
  rw [bwtInvSentinel]
  split
  · rfl
  · by_cases hone : L.count 0 = 1
    · rw [if_neg (not_not.mpr hone)]
      exact if_pos (h.resolve_left (not_not.mpr hone))
    · rw [if_pos hone]

/-- The walk meets the sentinel early exactly where the column holds 0x00 at one of its places (40_bwt.md R104). -/
theorem count_zero_walkMoveEmit_pos_iff {L : List Byte} (hone : L.count 0 = 1) :
    0 < (walkMoveEmit L (L.length - 1) (L.idxOf 0)).count 0 ↔
      ∃ k, k + 1 < L.length ∧ L[(lf L)^[k + 1] (L.idxOf 0)]? = some 0 := by
  have hmem : (0 : Byte) ∈ L := List.count_pos_iff.mp (by omega)
  have hstart : L.idxOf 0 < L.length := List.idxOf_lt_length_of_mem hmem
  rw [List.count_pos_iff, List.mem_iff_getElem?]
  constructor
  · rintro ⟨k, hk⟩
    have hlt : k < L.length - 1 := by
      have := (List.getElem?_eq_some_iff.mp hk).1
      rwa [length_walkMoveEmit] at this
    exact ⟨k, by omega, by rw [← getElem?_walkMoveEmit hstart hlt, hk]⟩
  · rintro ⟨k, hk, hget⟩
    exact ⟨k, by rw [getElem?_walkMoveEmit hstart (by omega), hget]⟩

end Sys2Proof.Machine
end

section
/-! PROOF. The inverse stage functions on buffers that pass their checks, and error entry on those that fail one
(44_pipeline.md R141 to R144; 60_exceptions.md R170, R172). -/

namespace Sys2Proof.Machine

/-! ### What a stage function does -/

theorem exec_bwtFwdSentinel (s : State) : exec .bwtFwdSentinel s = s.settle .bwt s.applyBwtFwdSentinel := rfl

theorem exec_bwtInvExplicit (s : State) : exec .bwtInvExplicit s = s.settle .bwtInv s.applyBwtInvExplicit := rfl

theorem exec_bwtInvSentinel (s : State) : exec .bwtInvSentinel s = s.settle .bwtInv s.applyBwtInvSentinel := rfl

theorem exec_rleDec (s : State) : exec .rleDec s = s.settle .rleInv s.applyRleDec := rfl

theorem exec_tabParse (s : State) : exec .tabParse s = s.settle .entropyInv s.applyTabParse := rfl

theorem exec_hufDec (s : State) : exec .hufDec s = s.settle .entropyInv s.applyHufDec := rfl

/-! ### Buffers that pass -/

theorem exec_bwtInvExplicit_ok {s : State} (hp : s.pidx.toNat < s.colL.length) : exec .bwtInvExplicit s = .next { s with
    blk := (walkEmitMove s.colL s.colL.length s.pidx.toNat).reverse } := by
  rw [exec_bwtInvExplicit, applyBwtInvExplicit_of_ok (bwtInvExplicit_ok hp), State.settle_ok]

theorem exec_bwtInvSentinel_ok {s : State} (hone : s.colL.count 0 = 1)
    (hzero : (walkMoveEmit s.colL (s.colL.length - 1) (s.colL.idxOf 0)).count 0 = 0) :
    exec .bwtInvSentinel s = .next { s with
      blk := (walkMoveEmit s.colL (s.colL.length - 1) (s.colL.idxOf 0)).reverse } := by
  rw [exec_bwtInvSentinel, applyBwtInvSentinel_of_ok (bwtInvSentinel_ok hone hzero), State.settle_ok]

theorem exec_rleDec_ok {s : State} {M : List Byte} (hM : rleDec (capL s.cfg s.mode) s.pairR = .ok M) :
    exec .rleDec s = .next { s with rankM := M } := by
  rw [exec_rleDec, applyRleDec_of_ok hM, State.settle_ok]

theorem exec_tabParse_ok {s : State} {c : Codes} (hc : tabParse s.tab = .ok c) :
    exec .tabParse s = .next { s with codes := c } := by
  rw [exec_tabParse, applyTabParse_of_ok hc, State.settle_ok]

theorem exec_hufDec_ok {s : State} {R : List Byte} (hR : hufDec s.codes (capR s.cfg s.mode) s.pay = .ok R) :
    exec .hufDec s = .next { s with pairR := R } := by
  rw [exec_hufDec, applyHufDec_of_ok hR, State.settle_ok]

/-- Settles O27: each function from the rule of its data; the walks are read place by place. -/
theorem inverseStageFunctionsWriteTheirResults : Obligations.InverseStageFunctionsWriteTheirResults := by
  refine ⟨fun s _ => exec_bwtInvExplicit_ok, fun s => exec_bwtInvSentinel_ok, fun s => rfl, fun s M => exec_rleDec_ok,
    fun s c => exec_tabParse_ok, fun s R => exec_hufDec_ok, fun s c hc htab => ?legalTable,
    fun s R hc hR => ?legalPayload, fun c cap P hc => hufDecodes_or_hufFails hc cap P, fun s ps hps hzero hcap => ?pairs,
    fun L i x => lf_eq_of_getElem?, fun s hp => ?walk, fun s hone hearly => ?sentinelWalk⟩
  case legalTable => exact exec_tabParse_ok (by rw [htab, tabParse_tabSer hc])
  case legalPayload => exact exec_hufDec_ok (hufDec_of_hufDecodes hc (by rwa [capR_eq]))
  case pairs => exact exec_rleDec_ok (by rw [hps]; exact rleDec_pairStream hzero (by rwa [capL_eq]))
  case walk =>
    refine ⟨_, exec_bwtInvExplicit_ok hp, by rw [List.length_reverse, length_walkEmitMove], fun k hk => ?_⟩
    rw [List.getElem?_reverse (by rw [length_walkEmitMove]; omega), length_walkEmitMove,
      show s.colL.length - 1 - (s.colL.length - 1 - k) = k by omega, getElem?_walkEmitMove hp hk]
  case sentinelWalk =>
    have hstart : s.colL.idxOf 0 < s.colL.length :=
      List.idxOf_lt_length_of_mem (List.count_pos_iff.mp (by rw [hone]; exact one_pos))
    have hzero : (walkMoveEmit s.colL (s.colL.length - 1) (s.colL.idxOf 0)).count 0 = 0 := by
      refine Nat.eq_zero_of_not_pos fun hpos => ?_
      obtain ⟨k, hk, hget⟩ := (count_zero_walkMoveEmit_pos_iff hone).mp hpos
      exact hearly k hk hget
    refine ⟨_, exec_bwtInvSentinel_ok hone hzero, by rw [List.length_reverse, length_walkMoveEmit]; omega, fun k hk => ?_⟩
    rw [List.getElem?_reverse (by rw [length_walkMoveEmit]; omega), length_walkMoveEmit,
      show s.colL.length - 1 - 1 - (s.colL.length - 2 - k) = k by omega, getElem?_walkMoveEmit hstart (by omega)]

/-! ### Error entry -/

section ErrorEntry

variable {s : State} {k : ErrKind}

theorem exec_rle_errorEntry (h : rleDec (capL s.cfg s.mode) s.pairR = .error k) :
    exec .rleDec s = .next (s.errorEntry (errWord k .rleInv)) ∧
      exec .rleInv s = .next (s.errorEntry (errWord k .rleInv)) := by
  rw [exec_rleDec, exec_rleInv, applyRleDec_of_error h]
  exact ⟨rfl, rfl⟩

theorem exec_bwtExplicit_errorEntry (h : bwtInvExplicit s.colL s.pidx.toNat = .error k) :
    exec .bwtInvExplicit s = .next (s.errorEntry 0xB02) ∧
      (s.mode = .explicitIndex → exec .bwtInv s = .next (s.errorEntry 0xB02)) := by
  obtain rfl : k = .corruptBlock := List.mem_singleton.mp (mem_of_bwtInvExplicit_error h)
  refine ⟨?_, fun hmode => exec_bwtInv_of_error (.inl ⟨hmode, applyBwtInvExplicit_of_error h⟩)⟩
  rw [exec_bwtInvExplicit, applyBwtInvExplicit_of_error h]
  rfl

theorem exec_bwtSentinel_errorEntry (h : bwtInvSentinel s.colL = .error k) :
    exec .bwtInvSentinel s = .next (s.errorEntry 0xB02) ∧
      (s.mode = .sentinel → exec .bwtInv s = .next (s.errorEntry 0xB02)) := by
  obtain rfl : k = .corruptBlock := List.mem_singleton.mp (mem_of_bwtInvSentinel_error h)
  refine ⟨?_, fun hmode => exec_bwtInv_of_error (.inr ⟨hmode, applyBwtInvSentinel_of_error h⟩)⟩
  rw [exec_bwtInvSentinel, applyBwtInvSentinel_of_error h]
  rfl

theorem exec_table_errorEntry (h : tabParse s.tab = .error k) :
    exec .tabParse s = .next (s.errorEntry 0x804) ∧ exec .entropyInv s = .next (s.errorEntry 0x804) := by
  obtain rfl : k = .malformedCodeTable := List.mem_singleton.mp (mem_of_tabParse_error h)
  rw [exec_tabParse, exec_entropyInv_of_no_table h, applyTabParse_of_error h]
  exact ⟨rfl, rfl⟩

theorem exec_hufDec_errorEntry (h : hufDec s.codes (capR s.cfg s.mode) s.pay = .error k) :
    exec .hufDec s = .next (s.errorEntry (errWord k .entropyInv)) := by
  rw [exec_hufDec, applyHufDec_of_error h]
  rfl

theorem exec_entropyInv_errorEntry {c : Codes} (hc : tabParse s.tab = .ok c)
    (h : hufDec c (capR s.cfg s.mode) s.pay = .error k) :
    exec .entropyInv s = .next { s.errorEntry (errWord k .entropyInv) with codes := c } := by
  rw [exec_entropyInv_of_table hc, applyHufDec_of_error (by exact h)]
  rfl

theorem exec_bwt_collision (h : 0 < s.blk.count 0) :
    exec .bwtFwdSentinel s = .next (s.errorEntry 0x205) ∧
      (s.mode = .sentinel → exec .bwt s = .next (s.errorEntry 0x205)) := by
  have happly := applyBwtFwdSentinel_of_error (bwtFwdSentinel_of_zero h)
  rw [exec_bwtFwdSentinel, happly]
  refine ⟨rfl, fun hmode => ?_⟩
  rw [exec_bwt_sentinel hmode, happly]
  rfl

end ErrorEntry

/-- Settles O23: each condition of 60_exceptions.md R170 makes its function fail, and a failing function is error entry. -/
theorem aFailedStageEntersTheError : Obligations.AFailedStageEntersTheError := by
  intro s
  refine ⟨exec_bwt_collision, fun hno => exec_table_errorEntry (tabParse_of_not_table hno),
    fun w hc hfails => ?payloadFails, fun c w hc htab hfails => ?entropyInvFails,
    fun hodd => exec_rle_errorEntry (rleDec_odd hodd _), fun ps hps h => ?pairs,
    fun h => exec_bwtExplicit_errorEntry (bwtInvExplicit_error h), fun h => ?sentinelColumn, fun k hk => ?tableKind,
    fun k hk => exec_hufDec_errorEntry hk, fun c k hc hk => exec_entropyInv_errorEntry hc hk, fun k hk => ?rleKind,
    fun k hk => ?explicitKind, fun k hk => ?sentinelKind⟩
  case payloadFails =>
    obtain ⟨k, hk, rfl⟩ := hufDec_of_hufFails hc hfails
    exact exec_hufDec_errorEntry (by rwa [capR_eq])
  case entropyInvFails =>
    obtain ⟨k, hk, rfl⟩ := hufDec_of_hufFails hc hfails
    exact exec_entropyInv_errorEntry (by rw [htab, tabParse_tabSer hc]) (by rwa [capR_eq])
  case pairs => exact exec_rle_errorEntry (k := .corruptBlock) (by rw [hps]; exact rleDec_error_of_pairs (by rwa [capL_eq]))
  case sentinelColumn =>
    refine exec_bwtSentinel_errorEntry (bwtInvSentinel_error ?_)
    by_cases hone : s.colL.count 0 = 1
    · exact .inr ((count_zero_walkMoveEmit_pos_iff hone).mpr (h.resolve_left (not_not.mpr hone)))
    · exact .inl hone
  case tableKind =>
    obtain ⟨hfun, hstage⟩ := exec_table_errorEntry hk
    exact ⟨hfun, hstage.trans hfun.symm⟩
  case rleKind =>
    obtain ⟨hfun, hstage⟩ := exec_rle_errorEntry hk
    exact ⟨hfun, hstage.trans hfun.symm⟩
  case explicitKind =>
    obtain ⟨hfun, hstage⟩ := exec_bwtExplicit_errorEntry hk
    exact ⟨hfun, fun hmode => (hstage hmode).trans hfun.symm⟩
  case sentinelKind =>
    obtain ⟨hfun, hstage⟩ := exec_bwtSentinel_errorEntry hk
    exact ⟨hfun, fun hmode => (hstage hmode).trans hfun.symm⟩

end Sys2Proof.Machine
end

section
/-! PROOF. Frames (30_encoding.md R82, R83; 44_pipeline.md R140): numbers are big-endian, a frame is its fields in order, and
the fields are read back from the front of a stream. -/

namespace Sys2Proof.Machine

/-! ### Numbers -/

@[simp] theorem length_be32 (v : Nat) : (be32 v).length = 4 := rfl

theorem ofBE_be32 {v : Nat} (hv : v < 2 ^ 32) : ofBE (be32 v) = v := by
  simp only [ofBE, be32, List.foldl, BitVec.toNat_ofNat]
  omega

/-- The bytes of a word, the most significant first (00_scope.md R19). -/
theorem ofNat_div_eq_extractLsb' {w : Nat} (v : BitVec w) (k : Nat) :
    BitVec.ofNat 8 (v.toNat / 2 ^ k) = v.extractLsb' k 8 := by
  apply BitVec.eq_of_toNat_eq
  rw [BitVec.toNat_ofNat, BitVec.extractLsb'_toNat, Nat.shiftRight_eq_div_pow]

theorem ofNat_eq_extractLsb' {w : Nat} (v : BitVec w) : BitVec.ofNat 8 v.toNat = v.extractLsb' 0 8 := by
  rw [← ofNat_div_eq_extractLsb', Nat.pow_zero, Nat.div_one]

theorem takeU32_be32 {v : Nat} (hv : v < 2 ^ 32) (rest : List Byte) : takeU32 (be32 v ++ rest) = some (v, rest) := by
  have htake : (be32 v ++ rest).take 4 = be32 v := rfl
  have hdrop : (be32 v ++ rest).drop 4 = rest := rfl
  rw [takeU32, if_neg (by rw [List.length_append, length_be32]; omega), htake, hdrop, ofBE_be32 hv]

/-! ### The fields of a frame -/

/-- The table and the payload length are read, and the payload is checked against what is left (44_pipeline.md R140). -/
theorem readBody_fields {p n : Nat} {tab rest : List Byte} (htab : tab.length ≤ maxTableBytes) (hn : n < 2 ^ 32) :
    readBody p (be32 tab.length ++ (tab ++ (be32 n ++ rest))) =
      if n > rest.length then .error .truncatedInput
      else if n = 0 then .error .truncatedInput
      else .ok (⟨p, tab, rest.take n⟩, rest.drop n) := by
  have hmax : maxTableBytes = 8706 := rfl
  have hfits : ¬tab.length > (tab ++ (be32 n ++ rest)).length := by rw [List.length_append]; omega
  rw [readBody, takeU32_be32 (by omega)]
  simp only [if_neg hfits, if_neg (not_lt.mpr htab), List.drop_left, List.take_left, takeU32_be32 hn]

theorem readBody_ok {p : Nat} {tab pay : List Byte} (rest : List Byte) (htab : tab.length ≤ maxTableBytes)
    (hpos : 1 ≤ pay.length) (hpay : pay.length < 2 ^ 32) :
    readBody p (be32 tab.length ++ (tab ++ (be32 pay.length ++ (pay ++ rest)))) = .ok (⟨p, tab, pay⟩, rest) := by
  rw [readBody_fields htab hpay, if_neg (by rw [List.length_append]; omega), if_neg (by omega), List.take_left,
    List.drop_left]

theorem readFrame_frameBytes {m : Mode} {p : Word} {tab pay : List Byte} (rest : List Byte)
    (htab : tab.length ≤ maxTableBytes) (hpos : 1 ≤ pay.length) (hpay : pay.length < 2 ^ 32) :
    readFrame m (frameBytes m p tab pay ++ rest) =
      .ok (⟨if m = .explicitIndex then p.toNat else 0, tab, pay⟩, rest) := by
  have hbody (q : Nat) := readBody_ok (p := q) rest htab hpos hpay
  cases m with
  | sentinel =>
    simp only [readFrame, frameBytes, List.append_assoc, List.nil_append]
    exact hbody 0
  | explicitIndex =>
    simp only [readFrame, frameBytes, List.append_assoc, takeU32_be32 p.isLt]
    exact hbody p.toNat

/-- Settles O40: the bytes of a number are its eight-bit fields; a frame is read field by field. -/
theorem frameFieldsReadBack : Obligations.FrameFieldsReadBack := by
  refine ⟨fun v => ?be32, fun v => ?be16, fun a b c d => ⟨?four, ?two⟩, fun p tab pay => ⟨rfl, rfl⟩,
    fun m p tab pay rest htab hpos hpay => readFrame_frameBytes rest htab hpos hpay⟩
  case be32 => simp only [be32, ofNat_div_eq_extractLsb', ofNat_eq_extractLsb']
  case be16 => simp only [be16, ofNat_div_eq_extractLsb', ofNat_eq_extractLsb']
  case four => simp only [ofBE, List.foldl]; omega
  case two => simp only [ofBE, List.foldl]; omega

/-- A frame without its last byte ends inside its payload (44_pipeline.md R140). -/
theorem readFrame_frameBytes_dropLast {m : Mode} {p : Word} {tab pay : List Byte} (htab : tab.length ≤ maxTableBytes)
    (hpos : 1 ≤ pay.length) (hpay : pay.length < 2 ^ 32) :
    readFrame m (frameBytes m p tab pay).dropLast = .error .truncatedInput := by
  have hne : pay ≠ [] := List.length_pos_iff.mp hpos
  have hshort : pay.length > pay.dropLast.length := by rw [List.length_dropLast]; omega
  have hbody (q : Nat) : readBody q (be32 tab.length ++ (tab ++ (be32 pay.length ++ pay.dropLast))) =
      .error .truncatedInput := by
    rw [readBody_fields htab hpay, if_pos hshort]
  cases m with
  | sentinel =>
    simpa only [readFrame, frameBytes, List.append_assoc, List.nil_append, List.dropLast_append_of_ne_nil, hne, ne_eq,
      not_false_eq_true, List.append_eq_nil_iff, and_false] using hbody 0
  | explicitIndex =>
    simp only [readFrame, frameBytes, List.append_assoc, List.dropLast_append_of_ne_nil, hne, ne_eq,
      not_false_eq_true, List.append_eq_nil_iff, and_false, takeU32_be32 p.isLt]
    exact hbody p.toNat

/-- A frame has two length fields at least. -/
theorem eight_le_length_frameBytes (m : Mode) (p : Word) (tab pay : List Byte) :
    8 ≤ (frameBytes m p tab pay).length := by
  rw [frameBytes_eq]
  simp only [List.length_append, length_be32]
  omega

/-! ### The size of a table and of a payload -/

theorem length_tabSer_le {c : Codes} (hc : LegalCodes c) : (tabSer c).length ≤ maxTableBytes := by
  obtain ⟨hcount, -, hlen, -⟩ := hc
  have hentry : ∀ n ∈ c.map fun e => (serEntry e).length, n ≤ 34 := by
    intro n hn
    obtain ⟨e, he, rfl⟩ := List.mem_map.mp hn
    have hcode := (hlen e he).2
    simp only [serEntry, List.length_cons, length_packBits]
    omega
  have hsum := List.sum_le_card_nsmul _ 34 hentry
  rw [List.length_map, smul_eq_mul] at hsum
  rw [tabSer, List.length_append, List.length_flatMap]
  have hmax : maxTableBytes = 8706 := rfl
  have htwo : (be16 c.length).length = 2 := rfl
  omega

theorem length_codeOf_le (X : List Byte) (x : Byte) : (codeOf (buildCodes X) x).length ≤ 255 := by
  rw [codeOf]
  cases h : (buildCodes X).lookup x with
  | none => simp
  | some w =>
    obtain ⟨l, r, hsplit, -⟩ := List.lookup_eq_some_iff.mp h
    exact (length_code_buildCodes X (x, w) (by rw [hsplit]; simp)).2

/-- A payload has its pad byte and eight bits of code to a byte (30_encoding.md R85). -/
theorem length_pack_buildCodes (X : List Byte) :
    1 ≤ (pack X (buildCodes X)).length ∧ (pack X (buildCodes X)).length ≤ 2 + 32 * X.length := by
  have hbits : ∀ n ∈ X.map fun x => (codeOf (buildCodes X) x).length, n ≤ 255 := by
    intro n hn
    obtain ⟨x, -, rfl⟩ := List.mem_map.mp hn
    exact length_codeOf_le X x
  have hsum := List.sum_le_card_nsmul _ 255 hbits
  rw [List.length_map, smul_eq_mul] at hsum
  rw [pack_eq, List.length_cons, length_packBits, List.length_flatMap]
  omega

end Sys2Proof.Machine
end

section
/-! PROOF. The whole-command functions (44_pipeline.md R150 to R153). The frame of a block is read back and decompressed to the
block; a stream is the frames of its blocks, and is read frame by frame. -/

namespace Sys2Proof.Machine

/-! ### One block -/

theorem columnOfFrame_enc {c : Config} {m : Mode} {L : List Byte} (p : Nat) (hL : L.length ≤ capL c m) :
    columnOfFrame c m ⟨p, (hufEnc (rleEnc (mtfEnc L).1)).1, (hufEnc (rleEnc (mtfEnc L).1)).2⟩ = .ok L := by
  have hlegal := buildCodes_legal (rleEnc (mtfEnc L).1)
  have hM : (mtfEnc L).1.length ≤ capL c m := by rwa [length_mtfEnc]
  have hR : (rleEnc (mtfEnc L).1).length ≤ capR c m :=
    (rleCodes_rleEnc _).length_le.trans (Nat.mul_le_mul_left 2 hM)
  have hmtf : (mtfDec (mtfEnc L).1).1 = L := congrArg Prod.fst (mtfDecFrom_mtfEncFrom isAlphabet_identityAlphabet L)
  simp only [columnOfFrame, hufEnc, tabParse_tabSer hlegal, hufDec_of_hufDecodes hlegal (hufDecodes_pack _ _ hR),
    (rleCodes_rleEnc _).rleDec_eq hM, hmtf]

/-- The bytes `f` are the frame of the block `B`: they are read from the front of any stream as a frame that decompresses
to the block, and short of their last byte they are no frame (44_pipeline.md R153). -/
structure FrameOf (c : Config) (m : Mode) (B f : List Byte) : Prop where
  two_le_length : 2 ≤ f.length
  read : ∃ fr, (∀ rest, readFrame m (f ++ rest) = .ok (fr, rest)) ∧ decompressFrame c m fr = .ok B
  truncated : readFrame m f.dropLast = .error .truncatedInput

theorem frameOf_frameOfColumn {c : Config} {m : Mode} {p : Word} {B L : List Byte} (hc : c.Legal)
    (hL : L.length ≤ capL c m)
    (hinv : (match m with | .explicitIndex => bwtInvExplicit L p.toNat | .sentinel => bwtInvSentinel L) = .ok B) :
    FrameOf c m B (frameOfColumn m p L) := by
  obtain ⟨-, hmax, -⟩ := hc
  have hcap : L.length ≤ 2 ^ 24 + 1 := by
    rw [capL_eq] at hL
    split at hL <;> omega
  have hR : (rleEnc (mtfEnc L).1).length ≤ 2 * L.length := by
    rw [← length_mtfEnc L]
    exact (rleCodes_rleEnc _).length_le
  have htab : (hufEnc (rleEnc (mtfEnc L).1)).1.length ≤ maxTableBytes := length_tabSer_le (buildCodes_legal _)
  obtain ⟨hpos, hle⟩ := length_pack_buildCodes (rleEnc (mtfEnc L).1)
  have hpay : (hufEnc (rleEnc (mtfEnc L).1)).2.length < 2 ^ 32 := by
    change (pack _ _).length < _
    omega
  refine ⟨?length, ⟨_, fun rest => readFrame_frameBytes rest htab hpos hpay, ?block⟩,
    readFrame_frameBytes_dropLast htab hpos hpay⟩
  case length => exact le_trans (by omega) (eight_le_length_frameBytes m p _ _)
  case block =>
    rw [decompressFrame, columnOfFrame_enc _ hL]
    cases m with
    | explicitIndex => simp only [if_pos, hinv]
    | sentinel => simp only [hinv]

theorem frameOf_compressBlock {c : Config} {m : Mode} {B f : List Byte} (hc : c.Legal) (hB : B ≠ [])
    (hlen : B.length ≤ c.maxBlockSize) (h : compressBlock m B = .ok f) : FrameOf c m B f := by
  cases m with
  | explicitIndex =>
    obtain rfl : frameOfColumn .explicitIndex (bwtFwdExplicit B).2 (bwtFwdExplicit B).1 = f := Except.ok.inj h
    refine frameOf_frameOfColumn hc ?_ (explicitBwtRoundTrips B hB (hlen.trans hc.2.1))
    rw [capL_explicitIndex]
    exact (length_lastColumn B).le.trans hlen
  | sentinel =>
    cases hL : bwtFwdSentinel B with
    | error k => simp [compressBlock, hL] at h
    | ok L =>
      obtain rfl : frameOfColumn .sentinel 0 L = f := by simpa [compressBlock, hL] using h
      obtain ⟨hzero, rfl⟩ := bwtFwdSentinel_ok hL
      refine frameOf_frameOfColumn hc ?_ (bwtInvSentinel_lastColumn hzero)
      rw [capL_sentinel, length_lastColumn, List.length_append, List.length_singleton]
      omega

/-! ### The blocks of an input -/

theorem splitFrom_cons (bs n : Nat) {D : List Byte} (hD : D ≠ []) :
    splitFrom bs (n + 1) D = D.take bs :: splitFrom bs n (D.drop bs) := by
  obtain ⟨d, ds, rfl⟩ := List.exists_cons_of_ne_nil hD
  rfl

theorem splitFrom_nil (bs n : Nat) : splitFrom bs n [] = [] := by cases n <;> rfl

theorem flatten_splitFrom {bs n : Nat} {D : List Byte} (hbs : 1 ≤ bs) (hn : D.length ≤ n) :
    (splitFrom bs n D).flatten = D := by
  induction n generalizing D with
  | zero =>
    obtain rfl := List.length_eq_zero_iff.mp (by omega : D.length = 0)
    rfl
  | succ n ih =>
    by_cases hD : D = []
    · rw [hD, splitFrom_nil, List.flatten_nil]
    · have hpos := List.length_pos_iff.mpr hD
      rw [splitFrom_cons bs n hD, List.flatten_cons, ih (by rw [List.length_drop]; omega), List.take_append_drop]

theorem of_mem_splitFrom {bs n : Nat} {D B : List Byte} (hbs : 1 ≤ bs) (hB : B ∈ splitFrom bs n D) :
    B ≠ [] ∧ B.length ≤ bs := by
  induction n generalizing D with
  | zero => cases hB
  | succ n ih =>
    by_cases hD : D = []
    · rw [hD, splitFrom_nil] at hB
      cases hB
    · rw [splitFrom_cons bs n hD, List.mem_cons] at hB
      obtain rfl | hB := hB
      · have hpos := List.length_pos_iff.mpr hD
        exact ⟨List.length_pos_iff.mp (by rw [List.length_take]; omega), List.length_take_le bs D⟩
      · exact ih hB

theorem flatten_splitBlocks {bs : Nat} (hbs : 1 ≤ bs) (D : List Byte) : (splitBlocks bs D).flatten = D :=
  flatten_splitFrom hbs le_rfl

/-! ### A stream of frames -/

/-- Blocks that can be compressed one by one. -/
def Blocks (c : Config) (Bs : List (List Byte)) : Prop := ∀ B ∈ Bs, B ≠ [] ∧ B.length ≤ c.maxBlockSize

theorem blocks_splitBlocks {c : Config} {bs : Nat} (hbs : 1 ≤ bs) (hmax : bs ≤ c.maxBlockSize) (D : List Byte) :
    Blocks c (splitBlocks bs D) := fun _ hB =>
  (of_mem_splitFrom hbs hB).imp_right (le_trans · hmax)

theorem compressBlocks_cons_ok {m : Mode} {B f : List Byte} (h : compressBlock m B = .ok f) (Bs : List (List Byte)) :
    compressBlocks m (B :: Bs) =
      ⟨f ++ (compressBlocks m Bs).output, (compressBlocks m Bs).blocks + 1, (compressBlocks m Bs).err⟩ := by
  rw [compressBlocks, h]

theorem compressBlocks_cons_error {m : Mode} {B : List Byte} {k : ErrKind} (h : compressBlock m B = .error k)
    (Bs : List (List Byte)) : compressBlocks m (B :: Bs) = ⟨[], 0, some (k, .bwt)⟩ := by
  rw [compressBlocks, h]

/-- A stream without an error begins with the frame of its first block. -/
theorem exists_frame_of_err_eq_none {m : Mode} {B : List Byte} {Bs : List (List Byte)}
    (h : (compressBlocks m (B :: Bs)).err = none) : ∃ f, compressBlock m B = .ok f ∧ (compressBlocks m Bs).err = none := by
  cases hf : compressBlock m B with
  | ok f => exact ⟨f, rfl, by rwa [compressBlocks_cons_ok hf] at h⟩
  | error k => rw [compressBlocks_cons_error hf] at h; cases h

theorem decompressFrom_read {c : Config} {m : Mode} {n : Nat} {D rest B : List Byte} {fr : Frame} (hD : D ≠ [])
    (hread : readFrame m D = .ok (fr, rest)) (hblock : decompressFrame c m fr = .ok B) :
    decompressFrom c m (n + 1) D =
      ⟨B ++ (decompressFrom c m n rest).output, (decompressFrom c m n rest).blocks + 1,
        (decompressFrom c m n rest).err⟩ := by
  obtain ⟨d, ds, rfl⟩ := List.exists_cons_of_ne_nil hD
  rw [decompressFrom, hread]
  simp only [hblock]

theorem decompressFrom_unread {c : Config} {m : Mode} {n : Nat} {D : List Byte} {k : ErrKind} (hD : D ≠ [])
    (hread : readFrame m D = .error k) : decompressFrom c m (n + 1) D = ⟨[], 0, some (k, .unframe)⟩ := by
  obtain ⟨d, ds, rfl⟩ := List.exists_cons_of_ne_nil hD
  rw [decompressFrom, hread]

/-- What was compressed is decompressed, frame by frame (44_pipeline.md R153). -/
theorem decompressFrom_compressBlocks {c : Config} {m : Mode} (hc : c.Legal) {Bs : List (List Byte)} (hBs : Blocks c Bs)
    (herr : (compressBlocks m Bs).err = none) {n : Nat} (hn : (compressBlocks m Bs).output.length ≤ n) :
    decompressFrom c m n (compressBlocks m Bs).output = ⟨Bs.flatten, (compressBlocks m Bs).blocks, none⟩ := by
  induction Bs generalizing n with
  | nil => cases n <;> rfl
  | cons B Bs ih =>
    obtain ⟨f, hf, herr⟩ := exists_frame_of_err_eq_none herr
    obtain ⟨hlen, ⟨fr, hread, hblock⟩, -⟩ := frameOf_compressBlock hc (hBs B List.mem_cons_self).1
      (hBs B List.mem_cons_self).2 hf
    rw [compressBlocks_cons_ok hf, List.length_append] at hn
    obtain ⟨n, rfl⟩ := Nat.exists_eq_add_one.mpr (by omega : 0 < n)
    have hne : f ++ (compressBlocks m Bs).output ≠ [] :=
      List.length_pos_iff.mp (by rw [List.length_append]; omega)
    rw [compressBlocks_cons_ok hf, decompressFrom_read hne (hread _) hblock,
      ih (fun B' hB' => hBs B' (List.mem_cons_of_mem B hB')) herr (by omega), List.flatten_cons]

/-- A stream less its last byte has all its frames but the last (44_pipeline.md R153). -/
theorem decompressFrom_dropLast {c : Config} {m : Mode} (hc : c.Legal) {Bs : List (List Byte)} (hBs : Blocks c Bs)
    (hne : Bs ≠ []) (herr : (compressBlocks m Bs).err = none) {n : Nat}
    (hn : (compressBlocks m Bs).output.dropLast.length ≤ n) :
    (decompressFrom c m n (compressBlocks m Bs).output.dropLast).err = some (.truncatedInput, .unframe) ∧
      (decompressFrom c m n (compressBlocks m Bs).output.dropLast).blocks + 1 = (compressBlocks m Bs).blocks := by
  induction Bs generalizing n with
  | nil => exact absurd rfl hne
  | cons B Bs ih =>
    obtain ⟨f, hf, herr⟩ := exists_frame_of_err_eq_none herr
    obtain ⟨hlen, ⟨fr, hread, hblock⟩, htrunc⟩ := frameOf_compressBlock hc (hBs B List.mem_cons_self).1
      (hBs B List.mem_cons_self).2 hf
    rw [compressBlocks_cons_ok hf] at hn ⊢
    simp only [List.length_dropLast, List.length_append] at hn
    obtain ⟨n, rfl⟩ := Nat.exists_eq_add_one.mpr (by omega : 0 < n)
    cases Bs with
    | nil =>
      have hshort : f.dropLast ≠ [] := List.length_pos_iff.mp (by rw [List.length_dropLast]; omega)
      have hlast : decompressFrom c m (n + 1) (f ++ (compressBlocks m []).output).dropLast =
          ⟨[], 0, some (.truncatedInput, .unframe)⟩ := by
        rw [compressBlocks, List.append_nil, decompressFrom_unread hshort htrunc]
      exact ⟨congrArg StreamResult.err hlast, congrArg (fun r => r.blocks + 1) hlast⟩
    | cons B' Bs =>
      have hrest : (compressBlocks m (B' :: Bs)).output ≠ [] := by
        obtain ⟨f', hf', -⟩ := exists_frame_of_err_eq_none herr
        have hB' := hBs B' (List.mem_cons_of_mem B List.mem_cons_self)
        have hlen' := (frameOf_compressBlock hc hB'.1 hB'.2 hf').two_le_length
        rw [compressBlocks_cons_ok hf']
        exact List.length_pos_iff.mp (by rw [List.length_append]; omega)
      have hnonempty : f ++ (compressBlocks m (B' :: Bs)).output.dropLast ≠ [] :=
        List.length_pos_iff.mp (by rw [List.length_append]; omega)
      obtain ⟨herr', hblocks⟩ := ih (fun b hb => hBs b (List.mem_cons_of_mem B hb)) (by simp) herr (n := n)
        (by rw [List.length_dropLast]; omega)
      rw [List.dropLast_append_of_ne_nil hrest, decompressFrom_read hnonempty (hread _) hblock]
      exact ⟨herr', congrArg (· + 1) hblocks⟩

theorem decompressStream_compressStream {c : Config} {m : Mode} {bs : Nat} {D : List Byte} (hc : c.Legal) (hbs : 1 ≤ bs)
    (hmax : bs ≤ c.maxBlockSize) (herr : (compressStream m bs D).err = none) :
    decompressStream c m (compressStream m bs D).output = ⟨D, (compressStream m bs D).blocks, none⟩ := by
  rw [decompressStream, compressStream, decompressFrom_compressBlocks hc (blocks_splitBlocks hbs hmax D) herr le_rfl,
    flatten_splitBlocks hbs]

/-! ### When a compression has an error -/

/-- Settles O41: no block fails in EXPLICIT_INDEX mode. -/
theorem explicitPipelineRoundTrips : Obligations.ExplicitPipelineRoundTrips := by
  intro c bs D hc hbs hmax
  have herr : (compressStream .explicitIndex bs D).err = none := by
    rw [compressStream]
    induction splitBlocks bs D with
    | nil => rfl
    | cons B Bs ih => rwa [compressBlocks_cons_ok rfl]
  exact ⟨herr, decompressStream_compressStream hc hbs hmax herr⟩

theorem compressBlock_sentinel_of_no_zero {B : List Byte} (h : B.count 0 = 0) : ∃ f, compressBlock .sentinel B = .ok f :=
  ⟨_, by rw [compressBlock, bwtFwdSentinel_of_no_zero h]⟩

theorem compressBlock_sentinel_of_zero {B : List Byte} (h : 0 < B.count 0) :
    compressBlock .sentinel B = .error .sentinelCollision := by
  rw [compressBlock, bwtFwdSentinel_of_zero h]

theorem err_compressBlocks_sentinel {Bs : List (List Byte)} (h : ∀ B ∈ Bs, B.count 0 = 0) :
    (compressBlocks .sentinel Bs).err = none := by
  induction Bs with
  | nil => rfl
  | cons B Bs ih =>
    obtain ⟨f, hf⟩ := compressBlock_sentinel_of_no_zero (h B List.mem_cons_self)
    rw [compressBlocks_cons_ok hf]
    exact ih fun B' hB' => h B' (List.mem_cons_of_mem B hB')

/-- The first block with a 0x00 collides, after the whole blocks before the first 0x00 (44_pipeline.md R153). -/
theorem compressBlocks_splitFrom_of_zero {bs n : Nat} {D : List Byte} (hbs : 1 ≤ bs) (hn : D.length ≤ n)
    (hzero : 0 ∈ D) :
    (compressBlocks .sentinel (splitFrom bs n D)).err = some (.sentinelCollision, .bwt) ∧
      (compressBlocks .sentinel (splitFrom bs n D)).blocks = D.idxOf 0 / bs := by
  induction n generalizing D with
  | zero =>
    obtain rfl := List.length_eq_zero_iff.mp (by omega : D.length = 0)
    cases hzero
  | succ n ih =>
    have hD : D ≠ [] := List.ne_nil_of_mem hzero
    rw [splitFrom_cons bs n hD]
    by_cases hfirst : 0 ∈ D.take bs
    · have hidx : D.idxOf 0 < bs := (List.mem_take_iff_idxOf_lt hzero).mp hfirst
      rw [compressBlocks_cons_error (compressBlock_sentinel_of_zero (List.count_pos_iff.mpr hfirst)),
        Nat.div_eq_of_lt hidx]
      exact ⟨rfl, rfl⟩
    · obtain ⟨f, hf⟩ := compressBlock_sentinel_of_no_zero (List.count_eq_zero.mpr hfirst)
      have hsplit := List.take_append_drop bs D
      have hdrop : 0 ∈ D.drop bs := by
        rw [← hsplit] at hzero
        exact (List.mem_append.mp hzero).resolve_left hfirst
      have hfull : bs < D.length := by
        have := List.length_pos_of_mem hdrop
        rw [List.length_drop] at this
        omega
      have hidx : D.idxOf 0 = bs + (D.drop bs).idxOf 0 := by
        conv_lhs => rw [← hsplit, List.idxOf_append_of_notMem hfirst, List.length_take, min_eq_left hfull.le]
      obtain ⟨herr, hblocks⟩ := ih (D := D.drop bs) (by rw [List.length_drop]; omega) hdrop
      rw [compressBlocks_cons_ok hf, hidx, Nat.add_div_left _ hbs]
      exact ⟨herr, congrArg (· + 1) hblocks⟩

/-- Settles O42: without a 0x00 no block collides; with one the first block that holds one does. -/
theorem sentinelPipelineRoundTripsOrCollides : Obligations.SentinelPipelineRoundTripsOrCollides := by
  intro c bs D hc hbs hmax
  refine ⟨fun hzero => ?_, fun hzero => compressBlocks_splitFrom_of_zero hbs le_rfl (List.count_pos_iff.mp hzero)⟩
  have herr : (compressStream .sentinel bs D).err = none := by
    refine err_compressBlocks_sentinel fun B hB => List.count_eq_zero.mpr fun h => ?_
    have hmem : (0 : Byte) ∈ (splitBlocks bs D).flatten := List.mem_flatten.mpr ⟨B, hB, h⟩
    rw [flatten_splitBlocks hbs] at hmem
    exact List.count_eq_zero.mp hzero hmem
  exact ⟨herr, decompressStream_compressStream hc hbs hmax herr⟩

/-- Settles O43: the frames before the last are read, and the last one is short of its last byte. -/
theorem truncatedStreamIsDetected : Obligations.TruncatedStreamIsDetected := by
  intro c m bs D hc hbs hmax hD herr
  have hne : splitBlocks bs D ≠ [] := by
    intro h
    have hflat := flatten_splitBlocks hbs D
    rw [h] at hflat
    exact hD hflat.symm
  exact decompressFrom_dropLast hc (blocks_splitBlocks hbs hmax D) hne herr le_rfl

end Sys2Proof.Machine
end

section
/-! PROOF. The engine alone (44_pipeline.md section 2): the whole input is in the IN FIFO, no host action is to come, and the
engine's steps are followed from one block boundary to the next. -/

namespace Sys2Proof.Machine

/-! ### Runs -/

/-- The engine takes `s` to `t` in some number of steps. -/
def Reaches (s t : State) : Prop := ∃ n, Host.Core.run core n s = .next t

theorem Reaches.refl (s : State) : Reaches s s := ⟨0, rfl⟩

theorem run_succ_of_step {s t : State} (h : step s = .next t) (n : Nat) :
    Host.Core.run core (n + 1) s = Host.Core.run core n t := by
  have hstep : core.step s = .next t := h
  simp only [Host.Core.run, hstep]

theorem Reaches.head {s t u : State} (h : step s = .next t) (htu : Reaches t u) : Reaches s u := by
  obtain ⟨n, hn⟩ := htu
  exact ⟨n + 1, (run_succ_of_step h n).trans hn⟩

theorem Reaches.trans {s t u : State} (hst : Reaches s t) (htu : Reaches t u) : Reaches s u := by
  obtain ⟨n, hn⟩ := hst
  induction n generalizing s with
  | zero =>
    obtain rfl : s = t := Host.Outcome.next.inj hn
    exact htu
  | succ n ih =>
    obtain ⟨s', hs', -⟩ := everyStepAnswersANextState s
    exact .head hs' (ih ((run_succ_of_step hs' n).symm.trans hn))

/-! ### The engine with its input -/

/-- A command is running, no host action is scheduled, and the input not yet popped is in the IN FIFO. -/
structure State.Alone (s : State) : Prop where
  busy : s.busy = true
  sched : s.sched = []
  left : s.latLen.toNat = s.inCount.toNat + s.inFifo.length

theorem State.Alone.rem_eq {s : State} (h : s.Alone) : s.rem = s.inFifo.length := by
  have := h.left
  rw [State.rem]
  omega

theorem State.Alone.congr {s t : State} (h : s.Alone) (hbusy : t.busy = s.busy) (hsched : t.sched = s.sched)
    (hlat : t.latLen = s.latLen) (hcount : t.inCount = s.inCount) (hin : t.inFifo = s.inFifo) : t.Alone :=
  ⟨hbusy.trans h.busy, hsched.trans h.sched, by rw [hlat, hcount, hin, h.left]⟩

theorem State.Alone.popped {s : State} (h : s.Alone) {b : Byte} {rest : List Byte} (hin : s.inFifo = b :: rest) :
    (s.popped rest).Alone := by
  refine ⟨h.busy, h.sched, ?_⟩
  have hleft := h.left
  have hlt := s.latLen.isLt
  rw [hin, List.length_cons] at hleft
  have hcount : (s.inCount + 1).toNat = s.inCount.toNat + 1 := by
    rw [BitVec.toNat_add, show (1 : Word).toNat = 1 from rfl]
    omega
  change s.latLen.toNat = (s.inCount + 1).toNat + rest.length
  omega

/-- With the whole input popped, IN_COUNT is the length the command started with. -/
theorem State.Alone.inCount_eq {s : State} (h : s.Alone) (hin : s.inFifo = []) : s.inCount = s.latLen := by
  have hleft := h.left
  rw [hin] at hleft
  exact (BitVec.eq_of_toNat_eq hleft).symm

theorem State.Alone.step_eq {s : State} (h : s.Alone) (hbound : s.boundary = false) : step s = exec s.stage.instr s := by
  rw [step_of_engineNext (.inl ⟨h.sched, rfl⟩), engineTurn_stage s h.busy hbound]

theorem State.Alone.step_boundary {s : State} (h : s.Alone) (hbound : s.boundary = true) :
    step s = .next s.boundaryStep := by
  rw [step_of_engineNext (.inl ⟨h.sched, rfl⟩), engineTurn_boundary s h.busy hbound]

/-! ### Inside a block -/

/-- `u` is inside the block that begins at the boundary state `s`: as in `s`, but for the buffers, the stage and the input,
which is the input of `s` from some byte on. -/
structure InBlock (s u : State) : Prop where
  alone : u.Alone
  same : u.forget = { s.forget with inFifo := u.inFifo, inCount := u.inCount, stage := u.stage, boundary := false }

namespace InBlock

variable {s u v w : State}

theorem boundary (h : InBlock s u) : u.boundary = false := (congrArg State.boundary h.same :)

theorem mode (h : InBlock s u) : u.mode = s.mode := (congrArg State.mode h.same :)

theorem cfg (h : InBlock s u) : u.cfg = s.cfg := (congrArg State.cfg h.same :)

theorem outFifo (h : InBlock s u) : u.outFifo = s.outFifo := (congrArg State.outFifo h.same :)

/-- Other buffers or another stage, and the input as it is. -/
theorem of_forget (h : InBlock s u) (hv : v.forget = { u.forget with stage := v.stage }) : InBlock s v where
  alone := h.alone.congr (congrArg State.busy hv :) (congrArg State.sched hv :) (congrArg State.latLen hv :)
    (congrArg State.inCount hv :) (congrArg State.inFifo hv :)
  same := by
    have hin : v.inFifo = u.inFifo := (congrArg State.inFifo hv :)
    have hcount : v.inCount = u.inCount := (congrArg State.inCount hv :)
    rw [hv, h.same, hin, hcount]

theorem popped (h : InBlock s u) {b : Byte} {rest : List Byte} (hin : u.inFifo = b :: rest) :
    InBlock s (u.popped rest) :=
  ⟨h.alone.popped hin, (congrArg (State.popped rest) h.same :)⟩

theorem step_eq {S : Stage} (h : InBlock s u) (hS : u.stage = S) : step u = exec S.instr u := by
  rw [h.alone.step_eq h.boundary, hS]

/-- One step of the stage. -/
theorem reaches {S : Stage} (h : InBlock s u) (hS : u.stage = S) (hexec : exec S.instr u = .next v) (hvw : Reaches v w) :
    Reaches u w :=
  .head ((h.step_eq hS).trans hexec) hvw

end InBlock

/-- A stage that takes bytes into a buffer takes the bytes `taken`: `got x v` is the state that has taken the bytes `x`, and
has the input of `v` left. -/
theorem reaches_takes {s u : State} (hu : InBlock s u) {taken rest : List Byte} (hin : u.inFifo = taken ++ rest)
    (got : List Byte → State → State)
    (hstep : ∀ (x y : List Byte) (b : Byte) (v : State), taken = x ++ b :: y → InBlock s v →
      v = { u with inFifo := v.inFifo, inCount := v.inCount } → v.inFifo = b :: (y ++ rest) →
      step (got x v) = .next (got (x ++ [b]) (v.popped (y ++ rest)))) :
    ∃ v, Reaches (got [] u) (got taken v) ∧ InBlock s v ∧ v = { u with inFifo := v.inFifo, inCount := v.inCount } ∧
      v.inFifo = rest := by
  suffices h : ∀ (y x : List Byte) (v : State), taken = x ++ y → InBlock s v →
      v = { u with inFifo := v.inFifo, inCount := v.inCount } → v.inFifo = y ++ rest →
      ∃ w, Reaches (got x v) (got taken w) ∧ InBlock s w ∧ w = { u with inFifo := w.inFifo, inCount := w.inCount } ∧
        w.inFifo = rest from h taken [] u rfl hu rfl hin
  intro y
  induction y with
  | nil =>
    rintro x v htaken hv hvu hvin
    rw [List.append_nil] at htaken
    exact ⟨v, htaken ▸ .refl _, hv, hvu, hvin⟩
  | cons b y ih =>
    intro x v htaken hv hvu hvin
    obtain ⟨w, hw, hrest⟩ := ih (x ++ [b]) (v.popped (y ++ rest)) (by rw [htaken, List.append_assoc]; rfl) (hv.popped hvin)
      (by rw [hvu]; rfl) rfl
    exact ⟨w, .head (hstep x y b v htaken hv hvu hvin) hw, hrest⟩

/-! ### The end of a block -/

/-- The state with the pending bytes `p` pushed (44_pipeline.md R139, R145). -/
def State.pushed (p : List Byte) (s : State) : State :=
  { s with pend := [], outFifo := s.outFifo ++ p, outCount := s.outCount + BitVec.ofNat 32 p.length }

theorem State.pushed_nil {s : State} (h : s.pend = []) : s.pushed [] = s := by
  rw [State.pushed, List.append_nil, List.length_nil, BitVec.add_zero, ← h]

theorem State.pushed_cons (b : Byte) (p : List Byte) (s : State) :
    s.pushed (b :: p) = State.pushed p { s.outPush b with pend := p } := by
  have hcount : s.outCount + BitVec.ofNat 32 (b :: p).length = s.outCount + 1 + BitVec.ofNat 32 p.length := by
    rw [List.length_cons, Nat.add_comm, BitVec.ofNat_add, BitVec.add_assoc]
    rfl
  rw [State.pushed, hcount, List.append_cons]
  rfl

/-- A port with the room for them takes all the pending bytes, and the block is committed. -/
theorem reaches_pushed {i : Instr} (hi : i = .framed ∨ i = .join) {s : State} {p : List Byte} (hs : s.Alone)
    (hbound : s.boundary = false) (hS : s.stage.instr = i) (hpend : s.pend = p)
    (hroom : s.outFifo.length + p.length ≤ s.cfg.outFifoDepth) : Reaches s (s.pushed p).commitBlock := by
  have hstep {u : State} (hu : u.Alone) (hb : u.boundary = false) (hSu : u.stage.instr = i) :
      step u = .next u.pushPending := by rw [hu.step_eq hb, hSu, exec_pushPending hi]
  induction p generalizing s with
  | nil =>
    rw [State.pushed_nil hpend, ← State.pushPending_nil hpend]
    exact .head (hstep hs hbound hS) (.refl _)
  | cons b p ih =>
    rw [List.length_cons] at hroom
    have hpush := State.pushPending_push hpend (s.outRoom_iff.mpr (by omega))
    have hroom' : (s.outFifo ++ [b]).length + p.length ≤ s.cfg.outFifoDepth := by
      rw [List.length_append, List.length_singleton]
      omega
    rw [State.pushed_cons]
    exact .head ((hstep hs hbound hS).trans (congrArg _ hpush)) (ih (hs.congr rfl rfl rfl rfl rfl) hbound hS rfl hroom')

/-! ### What a run computes -/

/-- `t` is the end of a command that had `s` at a block boundary, and has computed `r` from there on (44_pipeline.md R150,
R151). -/
structure Finishes (s t : State) (r : StreamResult) : Prop where
  busy : t.busy = false
  stage : t.stage = .idle
  output : t.outFifo = s.outFifo ++ r.output
  inCount : t.inCount = s.latLen
  outCount : t.outCount = s.outCount + BitVec.ofNat 32 r.output.length
  outCommit : t.outCommit = t.outCount
  blockCount : t.blockCount = s.blockCount + BitVec.ofNat 32 r.blocks
  onDone : r.err = none → t.done = true ∧ t.err = s.err ∧ t.errInfo = s.errInfo ∧ t.errBlock = s.errBlock
  onError : ∀ k S, r.err = some (k, S) →
    t.err = true ∧ t.done = s.done ∧ t.errInfo = errWord k S ∧ t.errBlock = t.blockCount

/-- From `s` the engine alone computes `r`. -/
def Computes (s : State) (r : StreamResult) : Prop := ∃ t, Reaches s t ∧ Finishes s t r

/-- A block boundary of a running command, all output committed (44_pipeline.md R132). -/
structure AtBoundary (s : State) : Prop where
  alone : s.Alone
  boundary : s.boundary = true
  committed : s.outCommit = s.outCount

/-- The input is spent: the command ends with DONE (44_pipeline.md R132, R148). -/
theorem computes_nil {s : State} (hs : AtBoundary s) (hin : s.inFifo = []) : Computes s ⟨[], 0, none⟩ := by
  have hrem : s.rem = 0 := by rw [hs.alone.rem_eq, hin]; rfl
  refine ⟨s.endDone, .head ((hs.alone.step_boundary hs.boundary).trans (congrArg _ (State.boundaryStep_spent hrem))) (.refl _),
    rfl, rfl, (List.append_nil _).symm, hs.alone.inCount_eq hin, (BitVec.add_zero _).symm, hs.committed,
    (BitVec.add_zero _).symm, fun _ => ⟨rfl, rfl, rfl, rfl⟩, fun _ _ h => nomatch h⟩

/-- Raising keeps what a block keeps. -/
theorem InBlock.raise {s u : State} (hu : InBlock s u) (k : ErrKind) (S : Stage) :
    InBlock (s.raise k S) (u.raise k S) :=
  ⟨hu.alone.congr rfl rfl rfl rfl rfl, (congrArg (State.raise k S) hu.same :)⟩

/-- In DRAIN the rest of the input is discarded (44_pipeline.md R147). -/
theorem reaches_drained {s u : State} (hu : InBlock s u) (hS : u.stage = .drain) :
    ∃ v, Reaches u v.endDrain ∧ InBlock s v ∧ v.inFifo = [] ∧ v.stage = .drain := by
  obtain ⟨v, hreach, hv, hvu, hin⟩ := reaches_takes hu (List.append_nil u.inFifo).symm
    (fun _ v => v) fun x y b v _ hv hvu hin => by
    have hdrain : v.stage = .drain := by rw [hvu]; exact hS
    have hrem : v.rem ≠ 0 := by rw [hv.alone.rem_eq, hin, List.length_cons]; omega
    exact (hv.step_eq hdrain).trans (congrArg _ (State.drainStep_pop hrem hin))
  have hdrain : v.stage = .drain := by rw [hvu]; exact hS
  have hrem : v.rem = 0 := by rw [hv.alone.rem_eq, hin]; rfl
  have hend : exec Stage.drain.instr v = .next v.endDrain := congrArg _ (State.drainStep_spent hrem)
  exact ⟨v, hreach.trans (hv.reaches hdrain hend (.refl _)), hv, hin, hdrain⟩

/-- A block that raised: the rest of the input is discarded, and the command ends (44_pipeline.md R147). -/
theorem computes_error {s u : State} {k : ErrKind} {S : Stage} (hs : AtBoundary s) (hu : InBlock s u)
    (hreach : Reaches s (u.raise k S)) : Computes s ⟨[], 0, some (k, S)⟩ := by
  obtain ⟨v, hdrained, hv, hin, -⟩ := reaches_drained (hu.raise k S) rfl
  have hlat : v.latLen = s.latLen := (congrArg State.latLen hv.same :)
  have hout : v.outCount = s.outCount := (congrArg State.outCount hv.same :)
  have hcommit : v.outCommit = s.outCommit := (congrArg State.outCommit hv.same :)
  have hblocks : v.blockCount = s.blockCount := (congrArg State.blockCount hv.same :)
  have hinfo : v.errInfo = errWord k S := (congrArg State.errInfo hv.same :)
  have herrBlock : v.errBlock = s.blockCount := (congrArg State.errBlock hv.same :)
  exact ⟨v.endDrain, hreach.trans hdrained, {
    busy := rfl
    stage := rfl
    output := hv.outFifo.trans (List.append_nil _).symm
    inCount := (hv.alone.inCount_eq hin).trans hlat
    outCount := hout.trans (BitVec.add_zero _).symm
    outCommit := (hcommit.trans hs.committed).trans hout.symm
    blockCount := hblocks.trans (BitVec.add_zero _).symm
    onDone := nofun
    onError := fun _ _ h => by
      obtain ⟨rfl, rfl⟩ := Prod.mk.inj (Option.some.inj h)
      exact ⟨(congrArg State.err hv.same :), (congrArg State.done hv.same :), hinfo, herrBlock.trans hblocks.symm⟩ }⟩

/-- A block whose bytes `f` are pushed and committed, and then the rest of the input. -/
theorem computes_cons {s u : State} {f : List Byte} {r : StreamResult} (hu : InBlock s u)
    (hreach : Reaches s (u.pushed f).commitBlock) (hrest : Computes (u.pushed f).commitBlock r) :
    Computes s ⟨f ++ r.output, r.blocks + 1, r.err⟩ := by
  obtain ⟨t, ht, hfin⟩ := hrest
  have hout : u.outCount = s.outCount := (congrArg State.outCount hu.same :)
  have hblocks : u.blockCount = s.blockCount := (congrArg State.blockCount hu.same :)
  exact ⟨t, hreach.trans ht, {
    busy := hfin.busy
    stage := hfin.stage
    output := by
      rw [← List.append_assoc, ← hu.outFifo]
      exact hfin.output
    inCount := hfin.inCount.trans (congrArg State.latLen hu.same :)
    outCount := by
      rw [List.length_append, BitVec.ofNat_add, ← BitVec.add_assoc, ← hout]
      exact hfin.outCount
    outCommit := hfin.outCommit
    blockCount := by
      rw [Nat.add_comm, BitVec.ofNat_add, ← BitVec.add_assoc, ← hblocks]
      exact hfin.blockCount
    onDone := fun h => by
      obtain ⟨hdone, herr, hinfo, herrBlock⟩ := hfin.onDone h
      exact ⟨hdone, herr.trans (congrArg State.err hu.same :), hinfo.trans (congrArg State.errInfo hu.same :),
        herrBlock.trans (congrArg State.errBlock hu.same :)⟩
    onError := fun k S h => by
      obtain ⟨herr, hdone, hinfo, herrBlock⟩ := hfin.onError k S h
      exact ⟨herr, hdone.trans (congrArg State.done hu.same :), hinfo, herrBlock⟩ }⟩

/-- The block is pushed, and the command goes on at a boundary, over the rest of the input and with the room that is left. -/
theorem computes_block {i : Instr} (hi : i = .framed ∨ i = .join) {s u : State} {f : List Byte} {r : StreamResult}
    (hu : InBlock s u) (hreach : Reaches s u) (hS : u.stage.instr = i) (hpend : u.pend = f)
    (hroom : s.outFifo.length + (f ++ r.output).length ≤ s.cfg.outFifoDepth)
    (hrest : ∀ t, AtBoundary t → t.op = s.op → t.mode = s.mode → t.cfg = s.cfg → t.latBs = s.latBs →
      t.inFifo = u.inFifo → t.outFifo.length + r.output.length ≤ t.cfg.outFifoDepth → Computes t r) :
    Computes s ⟨f ++ r.output, r.blocks + 1, r.err⟩ := by
  rw [List.length_append] at hroom
  have hpushed : Reaches u (u.pushed f).commitBlock :=
    reaches_pushed hi hu.alone hu.boundary hS hpend (by rw [hu.outFifo, hu.cfg]; omega)
  have hleft : (u.outFifo ++ f).length + r.output.length ≤ u.cfg.outFifoDepth := by
    rw [List.length_append, hu.outFifo, hu.cfg]
    omega
  exact computes_cons hu (hreach.trans hpushed) (hrest _ ⟨hu.alone.congr rfl rfl rfl rfl rfl, rfl, rfl⟩
    (congrArg State.op hu.same :) hu.mode hu.cfg (congrArg State.latBs hu.same :) rfl hleft)

end Sys2Proof.Machine
end

section
/-! PROOF. COMPRESS run by the engine alone (44_pipeline.md R133 to R139, R150): SPLIT takes the block, the transforms turn it
into its frame or raise, and FRAMED pushes the frame. -/

namespace Sys2Proof.Machine

/-! ### The start and the end -/

theorem atBoundary_loaded {s : State} {D : List Byte} (hlen : D.length = s.inLen.toNat) (o : Op) :
    AtBoundary (s.loaded o D) :=
  ⟨⟨rfl, rfl, by change s.inLen.toNat = 0 + D.length; omega⟩, rfl, rfl⟩

/-- What is computed from the start of a command is what the command ends with. -/
theorem ended_of_computes {s : State} {D : List Byte} {o : Op} {r : StreamResult} (hlen : D.length = s.inLen.toNat)
    (h : Computes (s.loaded o D) r) :
    ∃ n t, Host.Core.run core n (s.loaded o D) = .next t ∧ State.Ended t r D.length s.outFifo := by
  obtain ⟨t, ⟨n, hn⟩, hfin⟩ := h
  have hzero (k : Nat) : (0 : Word) + BitVec.ofNat 32 k = BitVec.ofNat 32 k := BitVec.zero_add _
  refine ⟨n, t, hn, {
    busy := hfin.busy
    stage := hfin.stage
    output := hfin.output
    inCount := hfin.inCount.trans ?_
    outCount := hfin.outCount.trans (hzero _)
    outCommit := hfin.outCommit
    blockCount := hfin.blockCount.trans (hzero _)
    onDone := hfin.onDone
    onError := fun k S h => ?_ }⟩
  · rw [hlen, BitVec.ofNat_toNat]
    exact (BitVec.setWidth_eq _).symm
  · obtain ⟨herr, hdone, hinfo, hblock⟩ := hfin.onError k S h
    exact ⟨herr, hdone, hinfo, hblock.trans (hfin.blockCount.trans (hzero _))⟩

/-! ### SPLIT -/

theorem inBlock_enterSplit {s : State} (hs : AtBoundary s) : InBlock s s.enterSplit :=
  ⟨hs.alone.congr rfl rfl rfl rfl rfl, rfl⟩

/-- SPLIT takes the block, a byte a step, and goes on to BWT (44_pipeline.md R133). -/
theorem reaches_split {s : State} (hs : AtBoundary s) (hop : s.op = .compress) (hin : s.inFifo ≠ []) :
    ∃ w, Reaches s w ∧ InBlock s w ∧ w.stage = .bwt ∧ w.blk = s.inFifo.take s.latBs.toNat ∧
      w.inFifo = s.inFifo.drop s.latBs.toNat := by
  have hrem : s.rem ≠ 0 := by
    rw [hs.alone.rem_eq]
    exact List.length_eq_zero_iff.not.mpr hin
  obtain ⟨v, hreach, hv, hvu, hrest⟩ := reaches_takes (inBlock_enterSplit hs)
    (List.take_append_drop s.latBs.toNat s.inFifo).symm (fun x v => { v with blk := x }) fun x y b v htaken hv hvu hvin => by
      have hgot : InBlock s { v with blk := x } := hv.of_forget rfl
      have hstage : v.stage = .split := by rw [hvu]; rfl
      have hlat : v.latBs = s.latBs := by rw [hvu]; rfl
      have hlen := congrArg List.length htaken
      rw [List.length_take, List.length_append, List.length_cons] at hlen
      have hleft : 0 < State.rem { v with blk := x } := by rw [hgot.alone.rem_eq, hvin]; exact Nat.succ_pos _
      have hmore : x.length < v.latBs.toNat := by rw [hlat]; omega
      exact (hgot.step_eq hstage).trans (exec_split_take ⟨hmore, hleft⟩ hvin)
  have hgot : InBlock s { v with blk := s.inFifo.take s.latBs.toNat } := hv.of_forget rfl
  have hstage : v.stage = .split := by rw [hvu]; rfl
  have hlat : v.latBs = s.latBs := by rw [hvu]; rfl
  have hfull : ¬((s.inFifo.take s.latBs.toNat).length < v.latBs.toNat ∧
      0 < State.rem { v with blk := s.inFifo.take s.latBs.toNat }) := by
    rw [hgot.alone.rem_eq, hrest, hlat, List.length_take, List.length_drop]
    omega
  have henter : step s = .next s.enterSplit :=
    (hs.alone.step_boundary hs.boundary).trans (congrArg _ (State.boundaryStep_compress hrem hop))
  exact ⟨_, .head henter (hreach.trans (hgot.reaches hstage (exec_split_full hfull) (.refl _))), hgot.of_forget rfl, rfl, rfl,
    hrest⟩

/-! ### The transforms -/

/-- From the column to the frame (44_pipeline.md R135 to R138). -/
theorem reaches_frame {s w : State} (hw : InBlock s w) (hS : w.stage = .mtf) :
    ∃ u, Reaches w u ∧ InBlock s u ∧ u.stage = .framed ∧ u.pend = frameOfColumn w.mode w.pidx w.colL ∧
      u.inFifo = w.inFifo := by
  have hmtf : InBlock s ({ w with rankM := (mtfEnc w.colL).1, alpha := (mtfEnc w.colL).2, stage := .rle }) :=
    hw.of_forget rfl
  have hrle := hmtf.of_forget (v := { w with
    rankM := (mtfEnc w.colL).1, alpha := (mtfEnc w.colL).2, pairR := rleEnc (mtfEnc w.colL).1, stage := .entropy }) rfl
  refine ⟨_, hw.reaches hS (exec_mtf w) (hmtf.reaches rfl (exec_rle _) (hrle.reaches rfl (exec_entropy _) (.refl _))),
    hrle.of_forget rfl, rfl, rfl, rfl⟩

/-- The block becomes its frame, or it collides (44_pipeline.md R134 to R138). -/
theorem reaches_compressBlock {s w : State} (hw : InBlock s w) (hS : w.stage = .bwt) :
    (∀ f, compressBlock w.mode w.blk = .ok f →
      ∃ u, Reaches w u ∧ InBlock s u ∧ u.stage = .framed ∧ u.pend = f ∧ u.inFifo = w.inFifo) ∧
    ∀ k, compressBlock w.mode w.blk = .error k → Reaches w (w.raise k .bwt) := by
  cases hm : w.mode with
  | explicitIndex =>
    have hbwt : InBlock s { w with
        colL := (bwtFwdExplicit w.blk).1, pidx := (bwtFwdExplicit w.blk).2, stage := .mtf } := hw.of_forget rfl
    obtain ⟨u, hreach, hu, hstage, hpend, hin⟩ := reaches_frame hbwt rfl
    refine ⟨fun f hf => ?_, nofun⟩
    obtain rfl := Except.ok.inj hf
    refine ⟨u, hw.reaches hS (exec_bwt_explicitIndex hm) hreach, hu, hstage, hpend.trans ?_, hin⟩
    exact congrArg (frameOfColumn · _ _) hm
  | sentinel =>
    cases hL : bwtFwdSentinel w.blk with
    | ok L =>
      have hbwt : InBlock s { w with colL := L, stage := .mtf } := hw.of_forget rfl
      obtain ⟨u, hreach, hu, hstage, hpend, hin⟩ := reaches_frame hbwt rfl
      have hexec : exec .bwt w = .next { w with colL := L, stage := .mtf } := by
        rw [exec_bwt_sentinel hm, applyBwtFwdSentinel_of_ok hL]
        rfl
      rw [compressBlock]
      simp only [hL]
      refine ⟨fun f hf => ?_, nofun⟩
      obtain rfl := Except.ok.inj hf
      refine ⟨u, hw.reaches hS hexec hreach, hu, hstage, hpend.trans ?_, hin⟩
      exact congrArg (frameOfColumn · w.pidx L) hm
    | error k =>
      have hexec : exec .bwt w = .next (w.raise k .bwt) := by
        rw [exec_bwt_sentinel hm, applyBwtFwdSentinel_of_error hL]
        rfl
      rw [compressBlock]
      simp only [hL]
      refine ⟨nofun, fun k' hk' => ?_⟩
      obtain rfl := Except.error.inj hk'
      exact hw.reaches hS hexec (.refl _)

/-! ### The command -/

theorem computes_compress {bs : Nat} (hbs : 1 ≤ bs) (m : Mode) (n : Nat) :
    ∀ s : State, AtBoundary s → s.op = .compress → s.mode = m → s.latBs.toNat = bs → s.inFifo.length ≤ n →
      s.outFifo.length + (compressBlocks m (splitFrom bs n s.inFifo)).output.length ≤ s.cfg.outFifoDepth →
      Computes s (compressBlocks m (splitFrom bs n s.inFifo)) := by
  induction n with
  | zero =>
    intro s hs _ _ _ hn _
    exact computes_nil hs (List.length_eq_zero_iff.mp (by omega))
  | succ n ih =>
    intro s hs hop hmode hlat hn hroom
    by_cases hin : s.inFifo = []
    · rw [hin, splitFrom_nil]
      exact computes_nil hs hin
    obtain ⟨w, hsplit, hw, hstage, hblk, hrest⟩ := reaches_split hs hop hin
    obtain ⟨hok, herror⟩ := reaches_compressBlock hw hstage
    rw [hw.mode, hblk, hmode, hlat] at hok herror
    rw [splitFrom_cons bs n hin] at hroom ⊢
    cases hf : compressBlock m (s.inFifo.take bs) with
    | error k =>
      rw [compressBlocks_cons_error hf]
      exact computes_error hs hw (hsplit.trans (herror k hf))
    | ok f =>
      obtain ⟨u, hframe, hu, hframed, hpend, huin⟩ := hok f hf
      rw [compressBlocks_cons_ok hf] at hroom ⊢
      refine computes_block (.inl rfl) hu (hsplit.trans hframe) (by rw [hframed]; rfl) hpend hroom
        fun t ht htop htmode _ htlat htin htroom => ?_
      have hdrop : t.inFifo = s.inFifo.drop bs := by rw [htin, huin, hrest, hlat]
      have hpos := List.length_pos_iff.mpr hin
      rw [← hdrop] at htroom ⊢
      exact ih t ht (htop.trans hop) (htmode.trans hmode) (htlat ▸ hlat) (by rw [hdrop, List.length_drop]; omega) htroom

/-- Settles O44: from the state after command start, block by block. -/
theorem compressRunComputesTheStream : Obligations.CompressRunComputesTheStream := by
  intro s D hinv _ hlen _ hroom
  obtain ⟨-, ⟨-, ⟨hbs, -⟩, -⟩, -⟩ := hinv
  exact ended_of_computes hlen (computes_compress hbs _ _ _ (atBoundary_loaded hlen _) rfl rfl rfl le_rfl hroom)

end Sys2Proof.Machine
end

section
/-! PROOF. UNFRAME run by the engine alone (44_pipeline.md R140): it reads a frame as `readFrame` does, or raises where
`readFrame` fails. -/

namespace Sys2Proof.Machine

/-! ### The frame reader, cut at the payload length -/

/-- The payload length and the payload of a frame with the table `tab` (44_pipeline.md R140). -/
def readPayload (p : Nat) (tab D : List Byte) : Except ErrKind (Frame × List Byte) :=
  match takeU32 D with
  | none => .error .truncatedInput
  | some (n, D) =>
    if n > D.length then .error .truncatedInput
    else if n = 0 then .error .truncatedInput
    else .ok (⟨p, tab, D.take n⟩, D.drop n)

theorem readBody_of_short {p : Nat} {D : List Byte} (h : takeU32 D = none) : readBody p D = .error .truncatedInput := by
  rw [readBody, h]

theorem readBody_of_takeU32 {p n : Nat} {D D' : List Byte} (h : takeU32 D = some (n, D')) :
    readBody p D = if n > D'.length then .error .truncatedInput
      else if n > maxTableBytes then .error .malformedCodeTable
      else readPayload p (D'.take n) (D'.drop n) := by
  rw [readBody, h]
  rfl

theorem readPayload_of_short {p : Nat} {tab D : List Byte} (h : takeU32 D = none) :
    readPayload p tab D = .error .truncatedInput := by
  rw [readPayload, h]

theorem readPayload_of_takeU32 {p n : Nat} {tab D D' : List Byte} (h : takeU32 D = some (n, D')) :
    readPayload p tab D = if n > D'.length then .error .truncatedInput
      else if n = 0 then .error .truncatedInput
      else .ok (⟨p, tab, D'.take n⟩, D'.drop n) := by
  rw [readPayload, h]

theorem takeU32_eq_none_iff {D : List Byte} : takeU32 D = none ↔ D.length < 4 := by simp [takeU32]

theorem takeU32_eq_some_iff {D D' : List Byte} {n : Nat} :
    takeU32 D = some (n, D') ↔ 4 ≤ D.length ∧ ofBE (D.take 4) = n ∧ D.drop 4 = D' := by
  rw [takeU32]
  split
  · simp; omega
  · rename_i h
    simp [not_lt.mp h]

theorem ofBE_lt_of_length_eq_four {D : List Byte} (h : D.length = 4) : ofBE D < 2 ^ 32 := by
  obtain ⟨a, b, c, d, rfl⟩ := List.length_eq_four.mp h
  simp only [ofBE, List.foldl]
  omega

/-- A frame takes bytes from the input. -/
theorem length_lt_of_readFrame {m : Mode} {D rest : List Byte} {fr : Frame} (h : readFrame m D = .ok (fr, rest)) :
    rest.length < D.length := by
  have hpayload {p : Nat} {tab D : List Byte} (h : readPayload p tab D = .ok (fr, rest)) : rest.length < D.length := by
    cases hD : takeU32 D with
    | none => rw [readPayload_of_short hD] at h; cases h
    | some r =>
      obtain ⟨n, D'⟩ := r
      obtain ⟨hfour, -, rfl⟩ := takeU32_eq_some_iff.mp hD
      rw [readPayload_of_takeU32 hD] at h
      split_ifs at h
      obtain rfl : _ = rest := congrArg Prod.snd (Except.ok.inj h)
      simp only [List.length_drop]
      omega
  have hbody {p : Nat} {D : List Byte} (h : readBody p D = .ok (fr, rest)) : rest.length < D.length := by
    cases hD : takeU32 D with
    | none => rw [readBody_of_short hD] at h; cases h
    | some r =>
      obtain ⟨n, D'⟩ := r
      obtain ⟨-, -, rfl⟩ := takeU32_eq_some_iff.mp hD
      rw [readBody_of_takeU32 hD] at h
      split_ifs at h
      have := hpayload h
      simp only [List.length_drop] at this
      omega
  cases m with
  | sentinel => exact hbody h
  | explicitIndex =>
    cases hD : takeU32 D with
    | none => rw [readFrame] at h; simp [hD] at h
    | some r =>
      obtain ⟨p, D'⟩ := r
      obtain ⟨-, -, rfl⟩ := takeU32_eq_some_iff.mp hD
      have := hbody (p := p) (D := D.drop 4) (by rw [readFrame] at h; simpa [hD] using h)
      rw [List.length_drop] at this
      omega

/-! ### The reads of UNFRAME -/

/-- UNFRAME with the bytes `x` of a number of `n` bytes, of the table, or of the payload. -/
def State.gotNumber (n : Nat) (x : List Byte) (s : State) : State := { s with fbuf := x, need := n - x.length }

def State.gotTab (n : Nat) (x : List Byte) (s : State) : State := { s with tab := x, need := n - x.length }

def State.gotPay (n : Nat) (x : List Byte) (s : State) : State := { s with pay := x, need := n - x.length }

theorem sub_length_concat (n : Nat) (x : List Byte) (b : Byte) : n - (x ++ [b]).length = n - x.length - 1 := by
  rw [List.length_append, List.length_singleton, Nat.sub_sub]

section Unframe

variable {s u w : State}

theorem InBlock.step_unframe (hu : InBlock s u) (hS : u.stage = .unframe) : step u = .next u.unframeStep :=
  hu.step_eq hS

theorem InBlock.reaches_unframe {v : State} (hu : InBlock s u) (hS : u.stage = .unframe) (hstep : u.unframeStep = v)
    (hvw : Reaches v w) : Reaches u w := .head (hstep ▸ hu.step_unframe hS) hvw

theorem reaches_gotNumber (hu : InBlock s u) (hS : u.stage = .unframe) (hf : u.field.isNumber) {x rest : List Byte}
    (hin : u.inFifo = x ++ rest) : ∃ v, Reaches (u.gotNumber x.length []) (v.gotNumber x.length x) ∧ InBlock s v ∧
      v = { u with inFifo := v.inFifo, inCount := v.inCount } ∧ v.inFifo = rest := by
  refine reaches_takes hu hin (State.gotNumber x.length) fun y z b v htaken hv hvu hvin => ?_
  have hgot : InBlock s (v.gotNumber x.length y) := hv.of_forget rfl
  have hstage : v.stage = .unframe := by rw [hvu]; exact hS
  have hfield : (v.gotNumber x.length y).field.isNumber := by change v.field.isNumber; rw [hvu]; exact hf
  have hneed : (v.gotNumber x.length y).need ≠ 0 := by
    change x.length - y.length ≠ 0
    rw [htaken, List.length_append, List.length_cons]
    omega
  rw [hgot.step_unframe hstage, unframeStep_number hfield hneed,
    takeFieldByte_cons (by exact hvin), State.gotNumber, State.gotNumber, sub_length_concat]
  rfl

theorem reaches_gotTab (hu : InBlock s u) (hS : u.stage = .unframe) (hf : u.field = .tab) {x rest : List Byte}
    (hin : u.inFifo = x ++ rest) : ∃ v, Reaches (u.gotTab x.length []) (v.gotTab x.length x) ∧ InBlock s v ∧
      v = { u with inFifo := v.inFifo, inCount := v.inCount } ∧ v.inFifo = rest := by
  refine reaches_takes hu hin (State.gotTab x.length) fun y z b v htaken hv hvu hvin => ?_
  have hgot : InBlock s (v.gotTab x.length y) := hv.of_forget rfl
  have hstage : v.stage = .unframe := by rw [hvu]; exact hS
  have hfield : (v.gotTab x.length y).field = .tab := by change v.field = .tab; rw [hvu]; exact hf
  have hneed : (v.gotTab x.length y).need ≠ 0 := by
    change x.length - y.length ≠ 0
    rw [htaken, List.length_append, List.length_cons]
    omega
  rw [hgot.step_unframe hstage, unframeStep_tab hfield hneed,
    takeTabByte_cons (by exact hvin), State.gotTab, State.gotTab, sub_length_concat]
  rfl

theorem reaches_gotPay (hu : InBlock s u) (hS : u.stage = .unframe) (hf : u.field = .pay) {x rest : List Byte}
    (hin : u.inFifo = x ++ rest) : ∃ v, Reaches (u.gotPay x.length []) (v.gotPay x.length x) ∧ InBlock s v ∧
      v = { u with inFifo := v.inFifo, inCount := v.inCount } ∧ v.inFifo = rest := by
  refine reaches_takes hu hin (State.gotPay x.length) fun y z b v htaken hv hvu hvin => ?_
  have hgot : InBlock s (v.gotPay x.length y) := hv.of_forget rfl
  have hstage : v.stage = .unframe := by rw [hvu]; exact hS
  have hfield : (v.gotPay x.length y).field = .pay := by change v.field = .pay; rw [hvu]; exact hf
  have hneed : (v.gotPay x.length y).need ≠ 0 := by
    change x.length - y.length ≠ 0
    rw [htaken, List.length_append, List.length_cons]
    omega
  rw [hgot.step_unframe hstage, unframeStep_pay hfield hneed,
    takePayByte_cons (by exact hvin), State.gotPay, State.gotPay, sub_length_concat]
  rfl

/-- A number of four bytes is read (44_pipeline.md R140). -/
theorem reaches_number (hu : InBlock s u) (hS : u.stage = .unframe) {f : FrameField} (hf : f.isNumber)
    (hcheck : u.unframeStep = u.checkFour f) {n : Nat} {D : List Byte} (hD : takeU32 u.inFifo = some (n, D)) :
    ∃ w, Reaches u w ∧ InBlock s w ∧ ofBE w.fbuf = n ∧ ofBE w.fbuf < 2 ^ 32 ∧ w.inFifo = D ∧
      w = { u with inFifo := w.inFifo, inCount := w.inCount, field := f, need := 0, fbuf := w.fbuf } := by
  obtain ⟨hfour, hnum, rfl⟩ := takeU32_eq_some_iff.mp hD
  have hlen : (u.inFifo.take 4).length = 4 := by rw [List.length_take]; omega
  have hbegun : InBlock s { u with field := f, need := 4, fbuf := [] } := hu.of_forget rfl
  obtain ⟨v, hreach, hv, hvu, hin⟩ := reaches_gotNumber hbegun hS hf (List.take_append_drop 4 u.inFifo).symm
  rw [hlen] at hreach
  have hpass := hcheck.trans (checkFour_pass (hu.alone.rem_eq ▸ hfour) f)
  have hnone : 4 - (u.inFifo.take 4).length = 0 := by rw [hlen]
  refine ⟨_, hu.reaches_unframe hS hpass hreach, hv.of_forget rfl, hnum, ofBE_lt_of_length_eq_four hlen, hin, ?_⟩
  rw [State.gotNumber, hnone, hvu]

theorem reaches_number_short (hu : InBlock s u) (hS : u.stage = .unframe) {f : FrameField}
    (hcheck : u.unframeStep = u.checkFour f) (hD : takeU32 u.inFifo = none) :
    Reaches u (u.raise .truncatedInput .unframe) := by
  rw [takeU32_eq_none_iff, ← hu.alone.rem_eq] at hD
  exact hu.reaches_unframe hS (hcheck.trans (checkFour_fail hD f)) (.refl _)

/-- The table is read (44_pipeline.md R140). -/
theorem reaches_tab (hu : InBlock s u) (hS : u.stage = .unframe) {n : Nat} (hn : n ≤ u.inFifo.length)
    (hstep : u.unframeStep = { u with field := .tab, need := n, tab := [] }) :
    ∃ w, Reaches u w ∧ InBlock s w ∧ w.stage = .unframe ∧ w.field = .payLenCheck ∧ w.tab = u.inFifo.take n ∧
      w.inFifo = u.inFifo.drop n ∧ w.pidx = u.pidx := by
  have hlen : (u.inFifo.take n).length = n := by rw [List.length_take, min_eq_left hn]
  have hbegun : InBlock s { u with field := .tab, need := n, tab := [] } := hu.of_forget rfl
  obtain ⟨v, hread, hv, hvu, hin⟩ := reaches_gotTab hbegun hS rfl (List.take_append_drop n u.inFifo).symm
  rw [hlen] at hread
  have hgot : InBlock s (v.gotTab n (u.inFifo.take n)) := hv.of_forget rfl
  have hstage : v.stage = .unframe := by rw [hvu]; exact hS
  have hfield : v.field = .tab := by rw [hvu]
  have hidx : v.pidx = u.pidx := by rw [hvu]
  have hneed : n - (u.inFifo.take n).length = 0 := by rw [hlen, Nat.sub_self]
  have hdone := unframeStep_tab_read (s := v.gotTab n (u.inFifo.take n)) hfield hneed
  exact ⟨_, hu.reaches_unframe hS hstep (hread.trans (hgot.reaches_unframe hstage hdone (.refl _))), hgot.of_forget rfl,
    hstage, rfl, rfl, hin, hidx⟩

/-- The payload is read, and UNFRAME goes on to ENTROPY_INV (44_pipeline.md R140). -/
theorem reaches_pay (hu : InBlock s u) (hS : u.stage = .unframe) {n : Nat} (hn : n ≤ u.inFifo.length)
    (hstep : u.unframeStep = { u with field := .pay, need := n, pay := [] }) :
    ∃ w, Reaches u w ∧ InBlock s w ∧ w.stage = .entropyInv ∧ w.inFifo = u.inFifo.drop n ∧ w.tab = u.tab ∧
      w.pay = u.inFifo.take n ∧ w.pidx = u.pidx := by
  have hlen : (u.inFifo.take n).length = n := by rw [List.length_take, min_eq_left hn]
  have hbegun : InBlock s { u with field := .pay, need := n, pay := [] } := hu.of_forget rfl
  obtain ⟨v, hread, hv, hvu, hin⟩ := reaches_gotPay hbegun hS rfl (List.take_append_drop n u.inFifo).symm
  rw [hlen] at hread
  have hgot : InBlock s (v.gotPay n (u.inFifo.take n)) := hv.of_forget rfl
  have hstage : v.stage = .unframe := by rw [hvu]; exact hS
  have hfield : v.field = .pay := by rw [hvu]
  have htab : v.tab = u.tab := by rw [hvu]
  have hidx : v.pidx = u.pidx := by rw [hvu]
  have hneed : n - (u.inFifo.take n).length = 0 := by rw [hlen, Nat.sub_self]
  have hdone := unframeStep_pay_read (s := v.gotPay n (u.inFifo.take n)) hfield hneed
  exact ⟨_, hu.reaches_unframe hS hstep (hread.trans (hgot.reaches_unframe hstage hdone (.refl _))), hgot.of_forget rfl,
    rfl, hin, htab, rfl, hidx⟩

/-! ### The frame -/

/-- UNFRAME, inside the block that begins at `s`, ends as the reader does: at ENTROPY_INV with the fields of the frame in
their buffers, or in error entry. -/
def UnframeEnds (s u : State) : Except ErrKind (Frame × List Byte) → Prop
  | .ok (fr, rest) => ∃ w, Reaches u w ∧ InBlock s w ∧ w.stage = .entropyInv ∧ w.inFifo = rest ∧ w.tab = fr.tab ∧
      w.pay = fr.pay ∧ (s.mode = .explicitIndex → w.pidx.toNat = fr.pidx)
  | .error k => ∃ w, Reaches u (w.raise k .unframe) ∧ InBlock s w

theorem UnframeEnds.head {r : Except ErrKind (Frame × List Byte)} (huw : Reaches u w) (h : UnframeEnds s w r) :
    UnframeEnds s u r :=
  match r, h with
  | .ok _, ⟨v, hwv, hv⟩ => ⟨v, huw.trans hwv, hv⟩
  | .error _, ⟨v, hwv, hv⟩ => ⟨v, huw.trans hwv, hv⟩

/-- From the check before the payload length on. -/
theorem unframeEnds_payload (hu : InBlock s u) (hS : u.stage = .unframe) (hf : u.field = .payLenCheck) {p : Nat}
    (hp : s.mode = .explicitIndex → u.pidx.toNat = p) : UnframeEnds s u (readPayload p u.tab u.inFifo) := by
  have hcheck := unframeStep_payLenCheck hf
  cases hD : takeU32 u.inFifo with
  | none =>
    rw [readPayload_of_short hD]
    exact ⟨u, reaches_number_short hu hS hcheck hD, hu⟩
  | some r =>
    obtain ⟨n, D⟩ := r
    obtain ⟨w, hreach, hw, rfl, -, rfl, hwu⟩ := reaches_number hu hS (.inr (.inr rfl)) hcheck hD
    have hstage : w.stage = .unframe := by rw [hwu]; exact hS
    have hfield : w.field = .payLen := by rw [hwu]
    have hneed : w.need = 0 := by rw [hwu]
    have htab : w.tab = u.tab := by rw [hwu]
    have hidx : w.pidx = u.pidx := by rw [hwu]
    have hstep := unframeStep_payLen_read hfield hneed
    refine .head hreach ?_
    rw [readPayload_of_takeU32 hD]
    by_cases hbad : w.rem < ofBE w.fbuf ∨ ofBE w.fbuf = 0
    · have hfail : Reaches w (w.raise .truncatedInput .unframe) :=
        hw.reaches_unframe hstage (hstep.trans (checkPayLen_fail hbad)) (.refl _)
      rw [hw.alone.rem_eq] at hbad
      by_cases hlong : ofBE w.fbuf > w.inFifo.length
      · rw [if_pos hlong]
        exact ⟨w, hfail, hw⟩
      · rw [if_neg hlong, if_pos (hbad.resolve_left hlong)]
        exact ⟨w, hfail, hw⟩
    · obtain ⟨hle, hpos⟩ := not_or.mp hbad
      have hpass := hstep.trans (checkPayLen_pass (not_lt.mp hle) hpos)
      rw [hw.alone.rem_eq, not_lt] at hle
      rw [if_neg (not_lt.mpr hle), if_neg hpos]
      obtain ⟨v, hread, hv, hdone, hin, hvtab, hvpay, hvidx⟩ := reaches_pay hw hstage hle hpass
      exact ⟨v, hread, hv, hdone, hin, hvtab.trans htab, hvpay,
        fun hm => (congrArg BitVec.toNat (hvidx.trans hidx)).trans (hp hm)⟩

/-- From the check before the table length on. -/
theorem unframeEnds_body (hu : InBlock s u) (hS : u.stage = .unframe) (hf : u.field = .tabLenCheck) {p : Nat}
    (hp : s.mode = .explicitIndex → u.pidx.toNat = p) : UnframeEnds s u (readBody p u.inFifo) := by
  have hcheck := unframeStep_tabLenCheck hf
  cases hD : takeU32 u.inFifo with
  | none =>
    rw [readBody_of_short hD]
    exact ⟨u, reaches_number_short hu hS hcheck hD, hu⟩
  | some r =>
    obtain ⟨n, D⟩ := r
    obtain ⟨w, hreach, hw, rfl, -, rfl, hwu⟩ := reaches_number hu hS (.inr (.inl rfl)) hcheck hD
    have hstage : w.stage = .unframe := by rw [hwu]; exact hS
    have hfield : w.field = .tabLen := by rw [hwu]
    have hneed : w.need = 0 := by rw [hwu]
    have hidx : w.pidx = u.pidx := by rw [hwu]
    have hstep := unframeStep_tabLen_read hfield hneed
    refine .head hreach ?_
    rw [readBody_of_takeU32 hD]
    by_cases hlong : ofBE w.fbuf > w.inFifo.length
    · rw [if_pos hlong]
      exact ⟨w, hw.reaches_unframe hstage (hstep.trans (checkTabLen_truncated (hw.alone.rem_eq ▸ hlong))) (.refl _), hw⟩
    have hle : ofBE w.fbuf ≤ w.rem := hw.alone.rem_eq ▸ not_lt.mp hlong
    by_cases hmax : ofBE w.fbuf > maxTableBytes
    · rw [if_neg hlong, if_pos hmax]
      exact ⟨w, hw.reaches_unframe hstage (hstep.trans (checkTabLen_tooLong hle hmax)) (.refl _), hw⟩
    rw [if_neg hlong, if_neg hmax]
    have hpass := hstep.trans (checkTabLen_pass hle (not_lt.mp hmax))
    obtain ⟨v, hread, hv, hvstage, hvfield, hvtab, hin, hvidx⟩ := reaches_tab hw hstage (not_lt.mp hlong) hpass
    refine .head hread ?_
    rw [← hin, ← hvtab]
    exact unframeEnds_payload hv hvstage hvfield fun hm => (congrArg BitVec.toNat (hvidx.trans hidx)).trans (hp hm)

end Unframe

/-- UNFRAME reads a frame as `readFrame` does (44_pipeline.md R140, R151). -/
theorem unframeEnds_readFrame {s : State} (hs : AtBoundary s) :
    UnframeEnds s s.enterUnframe (readFrame s.mode s.inFifo) := by
  have hu : InBlock s s.enterUnframe := ⟨hs.alone.congr rfl rfl rfl rfl rfl, rfl⟩
  cases hm : s.mode with
  | sentinel =>
    exact unframeEnds_body (p := 0) hu rfl (by rw [s.enterUnframe_eq, hm]; rfl) fun h => by simp [hm] at h
  | explicitIndex =>
    have hfield : s.enterUnframe.field = .idxCheck := by rw [s.enterUnframe_eq, hm]; rfl
    have hcheck := unframeStep_idxCheck hfield
    cases hD : takeU32 s.inFifo with
    | none =>
      simp only [readFrame, hD]
      exact ⟨_, reaches_number_short hu rfl hcheck hD, hu⟩
    | some r =>
      obtain ⟨p, D⟩ := r
      obtain ⟨w, hreach, hw, rfl, hlt, rfl, hwu⟩ := reaches_number hu rfl (.inl rfl) hcheck hD
      simp only [readFrame, hD]
      have hstage : w.stage = .unframe := by rw [hwu]; rfl
      have hdone := unframeStep_idx_read (s := w) (by rw [hwu]) (by rw [hwu])
      refine .head (hreach.trans (hw.reaches_unframe hstage hdone (.refl _))) ?_
      have hnext : InBlock s { w with pidx := BitVec.ofNat 32 (ofBE w.fbuf), field := .tabLenCheck } := hw.of_forget rfl
      exact unframeEnds_body hnext hstage rfl fun _ => Nat.mod_eq_of_lt hlt

end Sys2Proof.Machine
end

section
/-! PROOF. DECOMPRESS run by the engine alone (44_pipeline.md R140 to R145, R151): UNFRAME reads a frame, the inverse stages
turn it into its block or raise, and JOIN pushes the block. -/

namespace Sys2Proof.Machine

/-! ### The inverse stages -/

section Frame

variable {s w : State}

/-- The inverse stages, inside the block that begins at `s`, end as the frame's decompression does: at JOIN with the block
queued, or in error entry at the stage that fails. -/
def FrameEnds (s w : State) : Except (ErrKind × Stage) (List Byte) → Prop
  | .ok B => ∃ u, Reaches w u ∧ InBlock s u ∧ u.stage = .join ∧ u.pend = B ∧ u.inFifo = w.inFifo
  | .error e => ∃ u, Reaches w (u.raise e.1 e.2) ∧ InBlock s u

theorem FrameEnds.head {v : State} {r : Except (ErrKind × Stage) (List Byte)} (hwv : Reaches w v)
    (hin : v.inFifo = w.inFifo) (h : FrameEnds s v r) : FrameEnds s w r :=
  match r, h with
  | .ok _, ⟨u, hvu, hu, hS, hpend, hleft⟩ => ⟨u, hwv.trans hvu, hu, hS, hpend, hleft.trans hin⟩
  | .error _, ⟨u, hvu, hu⟩ => ⟨u, hwv.trans hvu, hu⟩

/-- BWT_INV: the inverse transform of the latched mode (44_pipeline.md R144). -/
theorem frameEnds_bwtInv {m : Mode} {p : Nat} (hw : InBlock s w) (hS : w.stage = .bwtInv) (hm : w.mode = m)
    (hp : m = .explicitIndex → w.pidx.toNat = p) :
    FrameEnds s w (match (match m with | .explicitIndex => bwtInvExplicit w.colL p | .sentinel => bwtInvSentinel w.colL) with
      | .ok B => .ok B
      | .error k => .error (k, .bwtInv)) := by
  have hjoin (B : List Byte) : InBlock s ((State.queueBlock { w with blk := B }).setStage .join) := hw.of_forget rfl
  cases m with
  | explicitIndex =>
    simp only [← hp rfl]
    cases hB : bwtInvExplicit w.colL w.pidx.toNat with
    | ok B =>
      exact ⟨_, hw.reaches hS (exec_bwtInv_of_ok (.inl ⟨hm, applyBwtInvExplicit_of_ok hB⟩)) (.refl _), hjoin B, rfl, rfl, rfl⟩
    | error k => exact ⟨w, hw.reaches hS (exec_bwtInv_of_error (.inl ⟨hm, applyBwtInvExplicit_of_error hB⟩)) (.refl _), hw⟩
  | sentinel =>
    simp only
    cases hB : bwtInvSentinel w.colL with
    | ok B =>
      exact ⟨_, hw.reaches hS (exec_bwtInv_of_ok (.inr ⟨hm, applyBwtInvSentinel_of_ok hB⟩)) (.refl _), hjoin B, rfl, rfl, rfl⟩
    | error k => exact ⟨w, hw.reaches hS (exec_bwtInv_of_error (.inr ⟨hm, applyBwtInvSentinel_of_error hB⟩)) (.refl _), hw⟩

/-- ENTROPY_INV, RLE_INV, MTF_INV and BWT_INV on the fields of a frame (44_pipeline.md R141 to R144). -/
theorem frameEnds_decompressFrame {fr : Frame} (hw : InBlock s w) (hS : w.stage = .entropyInv) (htab : w.tab = fr.tab)
    (hpay : w.pay = fr.pay) (hidx : w.mode = .explicitIndex → w.pidx.toNat = fr.pidx) :
    FrameEnds s w (decompressFrame w.cfg w.mode fr) := by
  rw [decompressFrame, columnOfFrame, ← htab, ← hpay]
  cases hc : tabParse w.tab with
  | error k => exact ⟨w, hw.reaches hS (exec_entropyInv_of_no_table hc) (.refl _), hw⟩
  | ok c =>
    have hcodes : InBlock s { w with codes := c } := hw.of_forget rfl
    simp only
    cases hR : hufDec c (capR w.cfg w.mode) w.pay with
    | error k =>
      have hexec : exec .entropyInv w = .next (State.raise k .entropyInv { w with codes := c }) := by
        rw [exec_entropyInv_of_table hc, applyHufDec_of_error (by exact hR)]
        rfl
      exact ⟨_, hw.reaches hS hexec (.refl _), hcodes⟩
    | ok R =>
      have hentropy : exec .entropyInv w = .next { w with codes := c, pairR := R, stage := .rleInv } := by
        rw [exec_entropyInv_of_table hc, applyHufDec_of_ok (by exact hR)]
        rfl
      have hpairs : InBlock s { w with codes := c, pairR := R, stage := .rleInv } := hw.of_forget rfl
      refine .head (hw.reaches hS hentropy (.refl _)) rfl ?_
      simp only
      cases hM : rleDec (capL w.cfg w.mode) R with
      | error k =>
        have hexec : exec .rleInv { w with codes := c, pairR := R, stage := .rleInv } =
            .next (State.raise k .rleInv { w with codes := c, pairR := R, stage := .rleInv }) := by
          rw [exec_rleInv, applyRleDec_of_error (by exact hM)]
          rfl
        exact ⟨_, hpairs.reaches rfl hexec (.refl _), hpairs⟩
      | ok M =>
        have hrle : exec .rleInv { w with codes := c, pairR := R, stage := .rleInv } =
            .next { w with codes := c, pairR := R, rankM := M, stage := .mtfInv } := by
          rw [exec_rleInv, applyRleDec_of_ok (by exact hM)]
          rfl
        have hranks : InBlock s { w with codes := c, pairR := R, rankM := M, stage := .mtfInv } := hw.of_forget rfl
        have hcolumn : InBlock s { w with
            codes := c, pairR := R, rankM := M, colL := (mtfDec M).1, alpha := (mtfDec M).2, stage := .bwtInv } :=
          hw.of_forget rfl
        refine .head (hpairs.reaches rfl hrle (hranks.reaches rfl (exec_mtfInv _) (.refl _))) rfl ?_
        exact frameEnds_bwtInv hcolumn rfl rfl hidx

end Frame

/-! ### The command -/

theorem decompressFrom_nil (c : Config) (m : Mode) (n : Nat) : decompressFrom c m n [] = ⟨[], 0, none⟩ := by
  cases n <;> rfl

theorem decompressFrom_failed {c : Config} {m : Mode} {n : Nat} {D rest : List Byte} {fr : Frame} {e : ErrKind × Stage}
    (hD : D ≠ []) (hread : readFrame m D = .ok (fr, rest)) (hframe : decompressFrame c m fr = .error e) :
    decompressFrom c m (n + 1) D = ⟨[], 0, some e⟩ := by
  obtain ⟨d, ds, rfl⟩ := List.exists_cons_of_ne_nil hD
  rw [decompressFrom, hread]
  simp only [hframe]

theorem computes_decompress (c : Config) (m : Mode) (n : Nat) :
    ∀ s : State, AtBoundary s → s.op = .decompress → s.mode = m → s.cfg = c → s.inFifo.length ≤ n →
      s.outFifo.length + (decompressFrom c m n s.inFifo).output.length ≤ c.outFifoDepth →
      Computes s (decompressFrom c m n s.inFifo) := by
  induction n with
  | zero =>
    intro s hs _ _ _ hn _
    obtain hin := List.length_eq_zero_iff.mp (by omega : s.inFifo.length = 0)
    rw [hin]
    exact computes_nil hs hin
  | succ n ih =>
    rintro s hs hop rfl rfl hn hroom
    by_cases hin : s.inFifo = []
    · rw [hin, decompressFrom_nil]
      exact computes_nil hs hin
    have hrem : s.rem ≠ 0 := by
      rw [hs.alone.rem_eq]
      exact List.length_eq_zero_iff.not.mpr hin
    have henter : Reaches s s.enterUnframe :=
      .head ((hs.alone.step_boundary hs.boundary).trans (congrArg _ (State.boundaryStep_decompress hrem hop))) (.refl _)
    have hunframe := unframeEnds_readFrame hs
    cases hread : readFrame s.mode s.inFifo with
    | error k =>
      rw [hread] at hunframe
      obtain ⟨w, hreach, hw⟩ := hunframe
      rw [decompressFrom_unread hin hread]
      exact computes_error hs hw (henter.trans hreach)
    | ok r =>
      obtain ⟨fr, rest⟩ := r
      rw [hread] at hunframe
      obtain ⟨w, hreach, hw, hstage, hleft, htab, hpay, hidx⟩ := hunframe
      have hframe := frameEnds_decompressFrame hw hstage htab hpay (fun h => hidx (hw.mode.symm.trans h))
      rw [hw.cfg, hw.mode] at hframe
      cases hB : decompressFrame s.cfg s.mode fr with
      | error e =>
        rw [hB] at hframe
        obtain ⟨u, hfail, hu⟩ := hframe
        rw [decompressFrom_failed hin hread hB]
        exact computes_error hs hu (henter.trans (hreach.trans hfail))
      | ok B =>
        rw [hB] at hframe
        obtain ⟨u, hblock, hu, hjoin, hpend, huin⟩ := hframe
        rw [decompressFrom_read hin hread hB] at hroom ⊢
        refine computes_block (.inr rfl) hu (henter.trans (hreach.trans hblock)) (by rw [hjoin]; rfl) hpend hroom
          fun t ht htop htmode htcfg _ htin htroom => ?_
        have hrest : t.inFifo = rest := htin.trans (huin.trans hleft)
        have hless := length_lt_of_readFrame hread
        rw [← hrest] at htroom hless ⊢
        exact ih t ht (htop.trans hop) htmode htcfg (by omega) (htcfg ▸ htroom)

/-- Settles O45: from the state after command start, frame by frame. -/
theorem decompressRunComputesTheStream : Obligations.DecompressRunComputesTheStream := by
  intro s D _ _ hlen _ hroom
  exact ended_of_computes hlen (computes_decompress _ _ _ _ (atBoundary_loaded hlen _) rfl rfl rfl le_rfl hroom)

end Sys2Proof.Machine
end
